-- ==== Sys2Proof/Word.lean ====
section
/-! DEFINITION. The words of the block: bytes of the sequence, the command word, the 64-bit operand and result. -/
namespace Sys2Proof

/-- One location of the sequence (20_memory R40). -/
abbrev Byte := BitVec 8

/-- The command word `CMD` (30_encoding R61). -/
abbrev CmdWord := BitVec 16

/-- The position operand `POS`, the accumulator and `RESULT` (30_encoding R60, 00_scope R10). -/
abbrev Word := BitVec 64

end Sys2Proof
end

