-- ==== Sys2Proof/Syntax.lean ====
section
/-! DEFINITION. The nine commands of spec/opcode_table.json (30_encoding R66). -/
namespace Sys2Proof

/-- A command as its word names it. `w` is the width operand (30_encoding R62). The position of an absolute read
is not in the word: it stands on the `POS` operand of the command port (30_encoding R63). -/
inductive Instr where
  /-- `GETPOS`, 43_cursor_query R140. -/
  | getpos
  /-- `RDU w`, 41_relative_reads R101. -/
  | rdu (w : Nat)
  /-- `RDBIT`, 41_relative_reads R102. -/
  | rdbit
  /-- `RDSI w`, 41_relative_reads R103. -/
  | rdsi (w : Nat)
  /-- `RDSL w`, 41_relative_reads R104. -/
  | rdsl (w : Nat)
  /-- `RDUL w`, 41_relative_reads R105. -/
  | rdul (w : Nat)
  /-- `RDUAT p, w`, 42_absolute_reads R121. -/
  | rduat (w : Nat)
  /-- `RDSAT p, w`, 42_absolute_reads R122. -/
  | rdsat (w : Nat)
  /-- `RDBITAT p`, 42_absolute_reads R123. -/
  | rdbitat
  deriving DecidableEq, Repr

end Sys2Proof
end

