-- ==== Sys2Proof/WellFormed.lean ====
section
/-! DEFINITION. Which commands the word can hold. -/
namespace Sys2Proof

/-- A width the 7-bit `WIDTH` field can hold (30_encoding R62). A width over a command's maximum is well formed:
it is encodable and has the WidthError outcome (30_encoding R70). -/
def widthFits (w : Nat) : Bool := decide (w < 128)

/-- The check the assembler of 30_encoding R70 makes on `<w>`. -/
def Instr.wf : Instr → Bool
  | .getpos => true
  | .rdu w => widthFits w
  | .rdbit => true
  | .rdsi w => widthFits w
  | .rdsl w => widthFits w
  | .rdul w => widthFits w
  | .rduat w => widthFits w
  | .rdsat w => widthFits w
  | .rdbitat => true

end Sys2Proof
end

