-- ==== Sys2Proof/Decode.lean ====
section
/-! DEFINITION. The command word: decoder, encoder, the opcode table's rows, and the assembler (30_encoding). -/
namespace Sys2Proof

/-- `OP = CMD[3:0]` (30_encoding R61). -/
def opField (c : CmdWord) : Nat := (c.extractLsb' 0 4).toNat

/-- `WIDTH = CMD[10:4]`, unsigned (30_encoding R61, R62). -/
def widthField (c : CmdWord) : Nat := (c.extractLsb' 4 7).toNat

/-- `RSV = CMD[15:11]` (30_encoding R61). -/
def rsvField (c : CmdWord) : Nat := (c.extractLsb' 11 5).toNat

/-- Why a word encodes no command (30_encoding R68). All three answer `ILLEGAL_COMMAND`. -/
inductive DecodeError where
  /-- `RSV != 0`. -/
  | reservedBits
  /-- `WIDTH != 0` on `GETPOS`, `RDBIT` or `RDBITAT`. -/
  | widthOnFixed
  /-- `OP` in 0x9 .. 0xF. -/
  | reservedOpcode
  deriving DecidableEq, Repr

/-- The opcode map (30_encoding R66). -/
def instrOf (op w : Nat) : Except DecodeError Instr :=
  match op with
  | 0 => .ok .getpos
  | 1 => .ok (.rdu w)
  | 2 => .ok .rdbit
  | 3 => .ok (.rdsi w)
  | 4 => .ok (.rdsl w)
  | 5 => .ok (.rdul w)
  | 6 => .ok (.rduat w)
  | 7 => .ok (.rdsat w)
  | 8 => .ok .rdbitat
  | _ => .error .reservedOpcode

/-- `Decode` (30_encoding R67). -/
def decode (c : CmdWord) : Except DecodeError Instr :=
  if rsvField c ≠ 0 then .error .reservedBits
  else if (opField c = 0 ∨ opField c = 2 ∨ opField c = 8) ∧ widthField c ≠ 0 then .error .widthOnFixed
  else instrOf (opField c) (widthField c)

/-- A word laid out as 30_encoding R61 says, `RSV = 0`. -/
def cmdOf (op w : Nat) : CmdWord := BitVec.ofNat 16 (w * 16 + op)

/-- The word of a command (30_encoding R61, R66). -/
def encode : Instr → CmdWord
  | .getpos => cmdOf 0 0
  | .rdu w => cmdOf 1 w
  | .rdbit => cmdOf 2 0
  | .rdsi w => cmdOf 3 w
  | .rdsl w => cmdOf 4 w
  | .rdul w => cmdOf 5 w
  | .rduat w => cmdOf 6 w
  | .rdsat w => cmdOf 7 w
  | .rdbitat => cmdOf 8 0

/-- A row of spec/opcode_table.json: a word belongs to it when its bits under `mask` are `pattern`. -/
structure Row where
  mnemonic : String
  mask     : CmdWord
  pattern  : CmdWord
  deriving DecidableEq, Repr

/-- spec/opcode_table.json, in its order. -/
def opcodeTable : List Row :=
  [ ⟨"GETPOS",  0xFFFF#16, 0x0000#16⟩, ⟨"RDU",   0xF80F#16, 0x0001#16⟩, ⟨"RDBIT", 0xFFFF#16, 0x0002#16⟩,
    ⟨"RDSI",    0xF80F#16, 0x0003#16⟩, ⟨"RDSL",  0xF80F#16, 0x0004#16⟩, ⟨"RDUL",  0xF80F#16, 0x0005#16⟩,
    ⟨"RDUAT",   0xF80F#16, 0x0006#16⟩, ⟨"RDSAT", 0xF80F#16, 0x0007#16⟩, ⟨"RDBITAT", 0xFFFF#16, 0x0008#16⟩ ]

/-- The word belongs to the row. -/
def Row.holds (r : Row) (c : CmdWord) : Bool := c &&& r.mask == r.pattern

/-- The name the assembler syntax gives a command (30_encoding R70). -/
def Instr.mnemonic : Instr → String
  | .getpos => "GETPOS"
  | .rdu _ => "RDU"
  | .rdbit => "RDBIT"
  | .rdsi _ => "RDSI"
  | .rdsl _ => "RDSL"
  | .rdul _ => "RDUL"
  | .rduat _ => "RDUAT"
  | .rdsat _ => "RDSAT"
  | .rdbitat => "RDBITAT"

/-- The commands that read `POS`, so whose assembler line has a `<pos>` (30_encoding R63, R70). -/
def Instr.readsPos : Instr → Bool
  | .rduat _ | .rdsat _ | .rdbitat => true
  | .getpos | .rdu _ | .rdbit | .rdsi _ | .rdsl _ | .rdul _ => false

/-- The assembler on one parsed line (30_encoding R70): the word and the `POS` operand (0 when the line has no
`<pos>`), or nothing for a line the syntax or the ranges of `<w>` and `<pos>` reject. -/
def assemble (i : Instr) (pos : Option Nat) : Option (CmdWord × Word) :=
  if i.wf && i.readsPos == pos.isSome && decide (pos.getD 0 < 2 ^ 64) then
    some (encode i, BitVec.ofNat 64 (pos.getD 0))
  else none

/-- A finished token, if there is one, before the rest of the line's tokens. -/
def pushToken (reversed : List Char) (rest : List (List Char)) : List (List Char) :=
  if reversed = [] then rest else reversed.reverse :: rest

/-- The tokens of a line: blanks separate them, a comma is one of its own, and `;` ends the line (30_encoding R70,
log 24). -/
def tokensFrom : List Char → List Char → List (List Char)
  | reversed, [] => pushToken reversed []
  | reversed, c :: cs =>
    if c = ';' then pushToken reversed []
    else if c = ' ' then pushToken reversed (tokensFrom [] cs)
    else if c = ',' then pushToken reversed ([','] :: tokensFrom [] cs)
    else tokensFrom (c :: reversed) cs

/-- The value of a digit, in upper or lower case. DESIGN CHOICE (log 24): 30_encoding R70 does not say which. -/
def digitValue (c : Char) : Option Nat :=
  if '0'.toNat ≤ c.toNat ∧ c.toNat ≤ '9'.toNat then some (c.toNat - '0'.toNat)
  else if 'a'.toNat ≤ c.toNat ∧ c.toNat ≤ 'f'.toNat then some (c.toNat - 'a'.toNat + 10)
  else if 'A'.toNat ≤ c.toNat ∧ c.toNat ≤ 'F'.toNat then some (c.toNat - 'A'.toNat + 10)
  else none

/-- Digits in a base, after a value read so far. -/
def digitsFrom (base : Nat) : Nat → List Char → Option Nat
  | v, [] => some v
  | v, c :: cs =>
    match digitValue c with
    | some d => if d < base then digitsFrom base (v * base + d) cs else none
    | none => none

/-- `<w>`: decimal (30_encoding R70), at least one digit and no `_`. DESIGN CHOICE (log 24): R70 does not say whether a
`_` may stand in a decimal numeral. -/
def readWidth (cs : List Char) : Option Nat := if cs = [] then none else digitsFrom 10 0 cs

/-- `<pos>`: decimal or 0x-hex (30_encoding R70). DESIGN CHOICE (log 24): a `_` anywhere after `0x` is a visual separator
and is dropped. R70 is silent on it; 00_scope R11 reads the spec's own `0x` numerals so, and 95_test_vectors V-RDUAT-8
writes such a line. A decimal `<pos>` holds no `_`. -/
def readPos (cs : List Char) : Option Nat :=
  match cs with
  | '0' :: 'x' :: ds =>
    let digits := ds.filter (· ≠ '_')
    if digits = [] then none else digitsFrom 16 0 digits
  | _ => readWidth cs

/-- The forms `<mnemonic>`, `<mnemonic> <operand>` and `<mnemonic> <pos>, <w>` (30_encoding R70). -/
def parseTokens (toks : List (List Char)) : Option (Instr × Option Nat) :=
  match toks with
  | [m] =>
    if m = ['G', 'E', 'T', 'P', 'O', 'S'] then some (.getpos, none)
    else if m = ['R', 'D', 'B', 'I', 'T'] then some (.rdbit, none)
    else none
  | [m, a] =>
    if m = ['R', 'D', 'U'] then (readWidth a).map fun w => (.rdu w, none)
    else if m = ['R', 'D', 'S', 'I'] then (readWidth a).map fun w => (.rdsi w, none)
    else if m = ['R', 'D', 'S', 'L'] then (readWidth a).map fun w => (.rdsl w, none)
    else if m = ['R', 'D', 'U', 'L'] then (readWidth a).map fun w => (.rdul w, none)
    else if m = ['R', 'D', 'B', 'I', 'T', 'A', 'T'] then (readPos a).map fun p => (.rdbitat, some p)
    else none
  | [m, p, [','], a] =>
    if m = ['R', 'D', 'U', 'A', 'T'] then (readPos p).bind fun p => (readWidth a).map fun w => (.rduat w, some p)
    else if m = ['R', 'D', 'S', 'A', 'T'] then (readPos p).bind fun p => (readWidth a).map fun w => (.rdsat w, some p)
    else none
  | _ => none

/-- The assembler on one line of text (30_encoding R70). -/
def assembleLine (line : List Char) : Option (CmdWord × Word) :=
  match parseTokens (tokensFrom [] line) with
  | some (i, pos) => assemble i pos
  | none => none

/-- What the decoder reads from a row's word. There is one command length, 16 bits (30_encoding R69), and the word
comes on a port, so bit k of `w` is `CMD[k]`. -/
def decodeTableWord (nbits w : Nat) : Option Instr :=
  if nbits ≤ 16 ∧ w < 2 ^ nbits then (decode (BitVec.ofNat 16 w)).toOption else none

end Sys2Proof
end

