-- ==== Sys2Proof/Config.lean ====
section
/-! DEFINITION. The parameters of 00_scope R9: those a construction takes, and the one the source leaves open. -/
namespace Sys2Proof

/-- `BYTE_ORDER` (10_state R34). -/
inductive ByteOrder where
  | msbFirst
  | lsbFirst
  deriving DecidableEq, Repr

/-- The two legal values of `BV_ZERO_WIDTH` (92_eei_decisions D24). -/
inductive ZeroWidth where
  | empty
  | widthError
  deriving DecidableEq, Repr, Inhabited

/-- `BV_ZERO_WIDTH`, the outcome of a zero-length byte-store request. OPEN in the spec (44_bytestore_interface
R168), so it has no body: nothing can be proved about which of the two it is (log 11). -/
opaque Config.bvZeroWidth : ZeroWidth

/-- What the caller fixes when the byte store and its instances are made (00_scope R9, 70_reset_and_hazards R211).
`SEQ_LEN` is the length of `seq`. -/
structure Params where
  seq       : List Byte
  byteOrder : ByteOrder
  initBc    : Nat
  nViews    : Nat
  posW      : Nat
  deriving DecidableEq, Repr

/-- The legal values of 00_scope R9; `POS_W <= 64` is D12's. -/
def Params.legal (p : Params) : Bool :=
  decide (p.initBc ≤ p.seq.length) && decide (1 ≤ p.nViews) && decide (p.posW ≤ 64)
    && decide (8 * p.seq.length < 2 ^ p.posW)

/-- The parameters behind `State.reset`. DESIGN CHOICE (log 5): nine zero bytes, MSB_FIRST and a 64-bit cursor;
`INIT_BC = 0` and `N_VIEWS = 1` are the defaults of 00_scope R9. -/
def Params.default : Params where
  seq       := List.replicate 9 0#8
  byteOrder := .msbFirst
  initBc    := 0
  nViews    := 1
  posW      := 64

end Sys2Proof
end

