-- ==== Sys2Proof/Machine/Memory.lean ====
section
/-! DEFINITION. The bytes of the sequence `SEQ`, as a canonical list of cells (20_memory R40, 10_state R25). The
block never writes it (20_memory R44), so there is no write: a memory is made once, from the caller's bytes. -/
namespace Sys2Proof.Machine

/-- The cells that differ from `unlistedByte`, addresses strictly rising. -/
abbrev Memory := List Host.Cell

/-- What an address the list does not name reads as, inside the sequence. DESIGN CHOICE (log 6). -/
def unlistedByte : Byte := 0#8

/-- The byte at one address. -/
def Memory.read : Memory → Nat → Byte
  | [], _ => unlistedByte
  | (a, b) :: rest, i => if a = i then b else Memory.read rest i

/-- The canonical form: addresses strictly rising, and no entry equal to what an unlisted address reads as. -/
def Memory.wf : Memory → Bool
  | [] => true
  | (a, b) :: rest => b != unlistedByte && rest.all (fun c => decide (a < c.1)) && Memory.wf rest

/-- The canonical memory that holds `bs` from address `a` on. -/
def Memory.ofBytesFrom : Nat → List Byte → Memory
  | _, [] => []
  | a, b :: bs =>
    if b = unlistedByte then Memory.ofBytesFrom (a + 1) bs else (a, b) :: Memory.ofBytesFrom (a + 1) bs

/-- The memory of a caller-supplied sequence: index 0 is the first byte (20_memory R50). -/
def Memory.ofBytes (bs : List Byte) : Memory := Memory.ofBytesFrom 0 bs

end Sys2Proof.Machine
end

