-- ==== Sys2Proof/Machine/State.lean ====
section
/-! DEFINITION. The state: the instances' bit cursors, the byte store, the ports, and the host's steps (10_state). -/
namespace Sys2Proof.Machine

/-- The byte store's sequence `SEQ[0 .. SEQ_LEN-1]` (10_state R25). -/
structure Sequence where
  len   : Nat
  bytes : Memory
  deriving DecidableEq, Repr

/-- What the host drives on a command port (30_encoding R60). -/
structure Command where
  port : Nat
  cmd  : CmdWord
  pos  : Word
  deriving DecidableEq, Repr

/-- The byte store's own operations (44_bytestore_interface R161 to R169). `n` counts bytes. -/
inductive ByteStoreOp where
  | readByte
  | readSlice (n : Nat)
  | readSliceAt (position n : Nat)
  | readUnsigned (n : Nat)
  | readSignedInt (n : Nat)
  | readSignedLong (n : Nat)
  | readUnsignedWide (n : Nat)
  | position
  | remaining
  | length
  deriving DecidableEq, Repr

/-- One step of the total order that the host fixes (20_memory R51). -/
inductive HostStep where
  /-- A command on a port (30_encoding R60). -/
  | command (c : Command)
  /-- `second` is issued before `first` has responded (20_memory R51, 70_reset_and_hazards R217). -/
  | overlap (first second : Command)
  /-- An operation of the byte store (44_bytestore_interface R160). -/
  | byteStore (op : ByteStoreOp)
  /-- The host sets `BC` (44_bytestore_interface R170). -/
  | moveBc (v : Nat)
  /-- Attach of the instance on a port (70_reset_and_hazards R210). -/
  | attach (port : Nat)
  deriving DecidableEq, Repr

/-- What an instance drives on its response port (30_encoding R60, R64). -/
structure Response where
  port   : Nat
  status : BitVec 2
  result : Word
  deriving DecidableEq, Repr

/-- How a byte-store operation ends (44_bytestore_interface R160 to R169). -/
inductive ByteStoreResult where
  | byte (b : Byte)
  | slice (bs : List Byte)
  | number (v : Int)
  | outOfRangeError
  | widthError
  deriving DecidableEq, Repr

/-- What a step puts out. -/
inductive Output where
  | response (r : Response)
  | byteStore (r : ByteStoreResult)
  deriving DecidableEq, Repr

/-- The whole machine.
`seq`, `byteOrder`, `bc`: the byte store's `SEQ`, `BYTE_ORDER`, `BC` (10_state R25, R34, R22).
`bitpos`: `BITPOS` of each instance, by port number; its length is `N_VIEWS` (10_state R20, R32).
`port`, `pos`: the port of the latest command and the `POS` operand on it (30_encoding R60, R63).
`output`: what the latest step put out; no step reads it (10_state R31, log 1).
`reads`: the byte indices the latest step read on the byte-read port, in order; no step reads it (log 2).
`script`: the host's remaining steps, oldest first (20_memory R51, log 3). -/
structure State where
  seq       : Sequence
  byteOrder : ByteOrder
  bc        : Nat
  bitpos    : List Nat
  port      : Nat
  pos       : Word
  output    : Option Output
  reads     : List Nat
  script    : List HostStep
  deriving DecidableEq, Repr

/-- Why the machine has no step. None of these is an outcome of a command: the spec's errors are responses. -/
inductive Fault where
  /-- Raised for a command or an attach on a port that has no instance: there are `N_VIEWS` ports (30_encoding R60,
  70_reset_and_hazards R211). Safe: the machine stops where the spec gives no step (log 13). -/
  | noSuchPort
  /-- Raised for a command issued before another has responded (20_memory R51, 70_reset_and_hazards R217: "no
  step"). Safe: the machine stops where the spec gives no step (log 12). -/
  | overlappingIssue
  /-- Raised for a host move of `BC` outside `[0, SEQ_LEN]` (44_bytestore_interface R170, 10_state R23). Safe: the
  machine stops where the spec allows no move (log 14). -/
  | hostMoveOutOfRange
  deriving DecidableEq, Repr

/-- Why an instruction has no meaning in the model. -/
inductive Refusal where
  /-- Raised by a rejected arm of `exec` for an instruction not modelled. Safe: nothing is claimed of it. No arm
  is rejected in this model. -/
  | notModelled (mnemonic : String)
  deriving DecidableEq, Repr

/-- Construction of the byte store and attach of its `N_VIEWS` instances (70_reset_and_hazards R210, R211; the
values are those of 10_state R33). The ports are idle. -/
def State.boot (p : Params) : State where
  seq       := ⟨p.seq.length, Memory.ofBytes p.seq⟩
  byteOrder := p.byteOrder
  bc        := p.initBc
  bitpos    := List.replicate p.nViews (8 * p.initBc)
  port      := 0
  pos       := 0#64
  output    := none
  reads     := []
  script    := []

/-- The machine right after attach, over the default parameters (10_state R33; log 4, log 5). -/
def State.reset : State := State.boot Params.default

end Sys2Proof.Machine
end

