-- ==== Sys2Proof/Machine/Flags.lean ====
section
/-! DEFINITION. The status codes of a response (30_encoding R65). The block keeps no flags (10_state R28). -/
namespace Sys2Proof.Machine

/-- The four outcomes of a command (60_exceptions R180). -/
inductive Status where
  | ok
  | widthError
  | outOfRange
  | illegalCommand
  deriving DecidableEq, Repr

/-- The two bits driven on `STATUS` (30_encoding R65). -/
def Status.code : Status → BitVec 2
  | .ok => 0b00#2
  | .widthError => 0b01#2
  | .outOfRange => 0b10#2
  | .illegalCommand => 0b11#2

/-- What a command can raise (60_exceptions R181, R182, R183). -/
inductive CommandError where
  | widthError
  | outOfRangeError
  | illegalCommand
  deriving DecidableEq, Repr

/-- `code(E)` (60_exceptions R184). -/
def CommandError.status : CommandError → Status
  | .widthError => .widthError
  | .outOfRangeError => .outOfRange
  | .illegalCommand => .illegalCommand

end Sys2Proof.Machine
end

