-- ==== Sys2Proof/Machine/Ops.lean ====
section
/-! DEFINITION. The named operations every command is built from: the two byte-store ports, the response, raising
an error, and the selected instance's cursor. -/
namespace Sys2Proof.Machine

/-- The byte-read port `MemRead(i, 1)`; nothing means the port signals out of range (44_bytestore_interface R150). -/
def Sequence.memRead (q : Sequence) (i : Nat) : Option Byte :=
  if i < q.len then some (q.bytes.read i) else none

/-- `StreamBit(b)`: bit `7 - (b mod 8)` of byte `b div 8` (00_scope R12). -/
def Sequence.streamBit (q : Sequence) (b : Nat) : Bool := (q.bytes.read (b / 8)).getLsbD (7 - b % 8)

/-- `respond(status, result)` on the open command's port (30_encoding R64). `reads` are the byte indices the
command read. -/
def State.respond (s : State) (st : Status) (result : Word) (reads : List Nat) : State :=
  { s with output := some (.response ⟨s.port, st.code, result⟩), reads := reads }

/-- `raise E`: the error response. It writes neither `BITPOS` nor `BC`, and `RESULT` is 0 (60_exceptions R184). This
is the block's only exception mechanism: no trap is entered, so there is no return from one (R188, R189). -/
def raise (e : CommandError) (reads : List Nat) (s : State) : Host.Outcome State Fault Refusal :=
  .next (s.respond e.status 0#64 reads)

/-- Run a command on the instance behind the open port, given its `BITPOS` (30_encoding R60, 60_exceptions R193). -/
def onPort (s : State) (run : Nat → Host.Outcome State Fault Refusal) : Host.Outcome State Fault Refusal :=
  match s.bitpos[s.port]? with
  | some bp => run bp
  | none => .fault .noSuchPort

/-- `BITPOS <- v` on the open port's instance (10_state R20). -/
def State.setBitpos (s : State) (v : Nat) : State := { s with bitpos := s.bitpos.set s.port v }

/-- `SyncByteCursor(p)`: `BC <- p div 8` through the cursor-write port (40_datapath R87, 44_bytestore_interface R151). -/
def State.syncByteCursor (s : State) (p : Nat) : State := { s with bc := p / 8 }

/-- The commit of a relative read that ends at `p` (40_datapath R88). -/
def State.commit (s : State) (p : Nat) : State := (s.setBitpos p).syncByteCursor p

end Sys2Proof.Machine
end

