-- ==== Sys2Proof/Machine/ByteStore.lean ====
section
/-! DEFINITION. The byte store's own operations, which the host performs (44_bytestore_interface R160 to R170). -/
namespace Sys2Proof.Machine

/-- `SEQ[a .. a+n-1]`, or nothing when the span exceeds the sequence (44_bytestore_interface R160, R162). -/
def Sequence.bytesAt (q : Sequence) (a n : Nat) : Option (List Byte) :=
  if a + n ≤ q.len then some ((List.range n).map fun k => q.bytes.read (a + k)) else none

/-- The bytes in the order they are assembled: reversed when LSB_FIRST (44_bytestore_interface R167). -/
def ordered (o : ByteOrder) (bs : List Byte) : List Byte :=
  match o with
  | .msbFirst => bs
  | .lsbFirst => bs.reverse

/-- `Assemble`: from 0, shift left 8 and OR in the next byte (44_bytestore_interface R167). -/
def assembleBytes (o : ByteOrder) (bs : List Byte) : Nat :=
  (ordered o bs).foldl (fun v b => (v <<< 8) ||| b.toNat) 0

/-- The value of `n` bytes without sign interpretation (44_bytestore_interface R164, R166). -/
def plainNumber (_n v : Nat) : Int := v

/-- The value of `n` bytes as signed: `v - 2^(8n)` if bit `8n - 1` is 1, else `v` (44_bytestore_interface R165). -/
def signedNumber (n v : Nat) : Int := if v.testBit (8 * n - 1) then (v : Int) - 2 ^ (8 * n) else v

/-- The operation returns `r`. The block's byte-read port is idle. -/
def State.yield (s : State) (r : ByteStoreResult) : State := { s with output := some (.byteStore r), reads := [] }

/-- `BC <- v`. -/
def State.setBc (s : State) (v : Nat) : State := { s with bc := v }

/-- A zero-length request: the open parameter decides (44_bytestore_interface R168, 92_eei_decisions D24, log 11).
`BC` is unchanged in both outcomes. -/
def zeroLength (emptyResult : ByteStoreResult) (s : State) : State :=
  match Config.bvZeroWidth with
  | .empty => s.yield emptyResult
  | .widthError => s.yield .widthError

/-- The multi-byte reads at `BC`: at most `nmax` bytes, `BC` advanced by `n` (44_bytestore_interface R160, R164 to R166). -/
def multiByteRead (n nmax : Nat) (number : Nat → Nat → Int) (s : State) : State :=
  if nmax < n then s.yield .widthError
  else if n = 0 then zeroLength (.number 0) s
  else match s.seq.bytesAt s.bc n with
    | none => s.yield .outOfRangeError
    | some bs => (s.setBc (s.bc + n)).yield (.number (number n (assembleBytes s.byteOrder bs)))

/-- `readByte()` (44_bytestore_interface R161). -/
def readByte (s : State) : State :=
  match s.seq.memRead s.bc with
  | none => s.yield .outOfRangeError
  | some b => (s.setBc (s.bc + 1)).yield (.byte b)

/-- `readSlice(n)` (44_bytestore_interface R162). -/
def readSlice (n : Nat) (s : State) : State :=
  if n = 0 then zeroLength (.slice []) s
  else match s.seq.bytesAt s.bc n with
    | none => s.yield .outOfRangeError
    | some bs => (s.setBc (s.bc + n)).yield (.slice bs)

/-- `readSliceAt(position, n)` (44_bytestore_interface R163). A zero length is settled before the span, wherever the
position lies (log 23). -/
def readSliceAt (position n : Nat) (s : State) : State :=
  if n = 0 then zeroLength (.slice []) s
  else match s.seq.bytesAt position n with
    | none => s.yield .outOfRangeError
    | some bs => s.yield (.slice bs)

/-- One operation of the byte store (44_bytestore_interface R161 to R169). -/
def byteStore (op : ByteStoreOp) (s : State) : State :=
  match op with
  | .readByte => readByte s
  | .readSlice n => readSlice n s
  | .readSliceAt position n => readSliceAt position n s
  | .readUnsigned n => multiByteRead n 2 plainNumber s
  | .readSignedInt n => multiByteRead n 4 signedNumber s
  | .readSignedLong n => multiByteRead n 8 signedNumber s
  | .readUnsignedWide n => multiByteRead n 8 plainNumber s
  | .position => s.yield (.number s.bc)
  | .remaining => s.yield (.number ((s.seq.len : Int) - s.bc))
  | .length => s.yield (.number s.seq.len)

end Sys2Proof.Machine
end

