-- ==== Sys2Proof/Machine/Extract.lean ====
section
/-! DEFINITION. `Extract`, transcribed step for step (40_datapath R81), and the closed form it is equal to (R83). -/
namespace Sys2Proof.Machine

/-- The working values of one extraction (10_state R30): `bytePos`, `bitOffsetInByte`, `cur`, `acc`, `done`. Beside
them the model keeps the byte indices read so far and whether a read has signalled out of range. -/
structure Datapath where
  bytePos         : Nat
  bitOffsetInByte : Nat
  cur             : Byte
  acc             : Word
  done            : Nat
  reads           : List Nat
  raised          : Bool
  deriving DecidableEq, Repr

/-- `bytePos <- i; cur <- MemRead(i, 1)`; out of range raises and nothing more is done (40_datapath R81). -/
def Datapath.load (q : Sequence) (i : Nat) (d : Datapath) : Datapath :=
  match q.memRead i with
  | some b => { d with bytePos := i, cur := b, reads := d.reads ++ [i] }
  | none => { d with raised := true }

/-- The reload at the head of a pass (40_datapath R81). -/
def Datapath.reload (q : Sequence) (d : Datapath) : Datapath :=
  if d.bitOffsetInByte = 8 then { d.load q (d.bytePos + 1) with bitOffsetInByte := 0 } else d

/-- The bits one pass takes from the current byte: 8-bit shifts (40_datapath R81, R82). -/
def partOf (cur : Byte) (offset take : Nat) : Byte := ((cur <<< offset) &&& 0xFF#8) >>> (8 - take)

/-- The rest of a pass: take bits of the current byte into the accumulator (40_datapath R81). -/
def Datapath.consume (n : Nat) (d : Datapath) : Datapath :=
  let take := min (8 - d.bitOffsetInByte) (n - d.done)
  { d with
    acc := (d.acc <<< take) ||| (partOf d.cur d.bitOffsetInByte take).setWidth 64
    bitOffsetInByte := d.bitOffsetInByte + take
    done := d.done + take }

/-- One pass of the loop (40_datapath R81). -/
def Datapath.pass (q : Sequence) (n : Nat) (d : Datapath) : Datapath :=
  if (d.reload q).raised then d.reload q else (d.reload q).consume n

/-- `while done < n`, at most `fuel` passes. A pass takes a bit at least, so `n` passes are enough
(70_reset_and_hazards R218). -/
def extractLoop (q : Sequence) (n : Nat) : Nat → Datapath → Datapath
  | 0, d => d
  | fuel + 1, d => if d.raised || decide (n ≤ d.done) then d else extractLoop q n fuel (d.pass q n)

/-- Step 1 of `Extract` (40_datapath R81). -/
def Datapath.start (q : Sequence) (start : Nat) : Datapath :=
  Datapath.load q (start / 8)
    { bytePos := start / 8, bitOffsetInByte := start % 8, cur := 0#8, acc := 0#64, done := 0, reads := [], raised := false }

/-- What an extraction gives: the byte indices read, and the end position with the raw value, or nothing when it
raised OutOfRangeError. -/
structure Extraction where
  reads : List Nat
  field : Option (Nat × Word)
  deriving DecidableEq, Repr

/-- `Extract(start, n)`, called with `1 <= n <= 64` (40_datapath R81). -/
def extract (q : Sequence) (start n : Nat) : Extraction :=
  let d := extractLoop q n n (Datapath.start q start)
  { reads := d.reads, field := if d.raised then none else some (start + n, d.acc) }

/-- The sum of 40_datapath R83: the field of `n` stream bits at `start`, first bit most significant. -/
def fieldValue (q : Sequence) (start n : Nat) : Nat :=
  ∑ k ∈ Finset.range n, (q.streamBit (start + k)).toNat * 2 ^ (n - 1 - k)

end Sys2Proof.Machine
end

