-- ==== Sys2Proof/Machine/Operands.lean ====
section
/-! DEFINITION. The width check, the sign extender and the conversions from raw value to `RESULT` (40_datapath). -/
namespace Sys2Proof.Machine

/-- The width check: outside `wmin .. wmax` a command raises WidthError (40_datapath R89). -/
def widthOutside (w wmin wmax : Nat) : Bool := decide (w < wmin) || decide (wmax < w)

/-- `SignExt(raw, w)`, an exact integer (40_datapath R84). -/
def signExt (raw : Word) (w : Nat) : Int :=
  if raw.getLsbD (w - 1) then (raw.toNat : Int) - 2 ^ w else raw.toNat

/-- `ToUnsigned` (40_datapath R93). -/
def toUnsigned (raw : Word) (w : Nat) : Word := (raw.setWidth w).setWidth 64

/-- `ToSigned` (40_datapath R93). -/
def toSigned (raw : Word) (w : Nat) : Word := (raw.setWidth w).signExtend 64

/-- `ToBool` (40_datapath R93); the width is always 1. -/
def toBoolean (raw : Word) (_w : Nat) : Word := (raw.setWidth 1).setWidth 64

/-- `M_w = 2^w - 1` held in 64 bits (40_datapath R85 a). -/
def widthMask (w : Nat) : Word := BitVec.ofNat 64 (2 ^ w - 1)

/-- Form (a) of 40_datapath R85. -/
def signFormA (raw : Word) (w : Nat) : Word := -(~~~(raw - 1#64) &&& widthMask w)

/-- Form (b) of 40_datapath R85, modulo `2^64`. -/
def signFormB (raw : Word) (w : Nat) : Word := raw - (1#64 <<< (w - 1)) * 2#64

/-- Form (c) of 40_datapath R85. -/
def signFormC (raw : Word) (w : Nat) : Word := (raw <<< (64 - w)).sshiftRight (64 - w)

end Sys2Proof.Machine
end

