-- ==== Sys2Proof/Machine/Reads.lean ====
section
/-! DEFINITION. The two procedures every read command is an instance of (40_datapath R80, R94, R95). -/
namespace Sys2Proof.Machine

/-- `RelativeRead(w, wmin, wmax, Conv)` (40_datapath R94). -/
def relativeRead (w wmin wmax : Nat) (conv : Word → Nat → Word) (s : State) : Host.Outcome State Fault Refusal :=
  onPort s fun bp =>
    if widthOutside w wmin wmax then raise .widthError [] s
    else if w = 0 then .next (s.respond .ok 0#64 [])
    else match extract s.seq bp w with
      | ⟨reads, none⟩ => raise .outOfRangeError reads s
      | ⟨reads, some (stop, raw)⟩ => .next ((s.commit stop).respond .ok (conv raw w) reads)

/-- `AbsoluteRead(p, w, wmin, wmax, Conv)`, `p = uint(POS)` (40_datapath R95, R92; 30_encoding R63). -/
def absoluteRead (w wmin wmax : Nat) (conv : Word → Nat → Word) (s : State) : Host.Outcome State Fault Refusal :=
  onPort s fun _ =>
    if widthOutside w wmin wmax then raise .widthError [] s
    else match extract s.seq s.pos.toNat w with
      | ⟨reads, none⟩ => raise .outOfRangeError reads s
      | ⟨reads, some (_, raw)⟩ => .next (s.respond .ok (conv raw w) reads)

end Sys2Proof.Machine
end

