-- ==== Sys2Proof/Machine/AbsoluteReads.lean ====
section
/-! DEFINITION. The absolute reads (42_absolute_reads R120). -/
namespace Sys2Proof.Machine

/-- `RDUAT p, w` (42_absolute_reads R121). -/
def execRduat (w : Nat) (s : State) : Host.Outcome State Fault Refusal := absoluteRead w 1 32 toUnsigned s

/-- `RDSAT p, w` (42_absolute_reads R122). -/
def execRdsat (w : Nat) (s : State) : Host.Outcome State Fault Refusal := absoluteRead w 1 32 toSigned s

/-- `RDBITAT p` (42_absolute_reads R123). -/
def execRdbitat (s : State) : Host.Outcome State Fault Refusal := absoluteRead 1 1 1 toBoolean s

end Sys2Proof.Machine
end

