-- ==== Sys2Proof/Machine/CursorQuery.lean ====
section
/-! DEFINITION. The cursor query (43_cursor_query). -/
namespace Sys2Proof.Machine

/-- `GETPOS`: `respond(OK, zext_64(BITPOS))`; it reads no byte and writes no state (43_cursor_query R140). For a
`BITPOS` of 64 bits or more, which `POS_W <= 64` rules out, the low 64 bits answer (log 7). -/
def execGetpos (s : State) : Host.Outcome State Fault Refusal :=
  onPort s fun bp => .next (s.respond .ok (BitVec.ofNat 64 bp) [])

end Sys2Proof.Machine
end

