-- ==== Sys2Proof/Machine/RelativeReads.lean ====
section
/-! DEFINITION. The relative reads (41_relative_reads R100). -/
namespace Sys2Proof.Machine

/-- `RDU w` (41_relative_reads R101). -/
def execRdu (w : Nat) (s : State) : Host.Outcome State Fault Refusal := relativeRead w 0 16 toUnsigned s

/-- `RDBIT` (41_relative_reads R102). -/
def execRdbit (s : State) : Host.Outcome State Fault Refusal := relativeRead 1 1 1 toBoolean s

/-- `RDSI w` (41_relative_reads R103). -/
def execRdsi (w : Nat) (s : State) : Host.Outcome State Fault Refusal := relativeRead w 0 32 toSigned s

/-- `RDSL w` (41_relative_reads R104). -/
def execRdsl (w : Nat) (s : State) : Host.Outcome State Fault Refusal := relativeRead w 0 64 toSigned s

/-- `RDUL w` (41_relative_reads R105). -/
def execRdul (w : Nat) (s : State) : Host.Outcome State Fault Refusal := relativeRead w 0 64 toUnsigned s

end Sys2Proof.Machine
end

