-- ==== Sys2Proof/Machine/Dispatch.lean ====
section
/-! DEFINITION. One arm per command: its meaning (30_encoding R66, R67). -/
namespace Sys2Proof.Machine

def exec (i : Instr) (s : State) : Host.Outcome State Fault Refusal :=
  match i with
  | .getpos => Sys2Proof.Machine.execGetpos s
  | .rdu w => Sys2Proof.Machine.execRdu w s
  | .rdbit => Sys2Proof.Machine.execRdbit s
  | .rdsi w => Sys2Proof.Machine.execRdsi w s
  | .rdsl w => Sys2Proof.Machine.execRdsl w s
  | .rdul w => Sys2Proof.Machine.execRdul w s
  | .rduat w => Sys2Proof.Machine.execRduat w s
  | .rdsat w => Sys2Proof.Machine.execRdsat w s
  | .rdbitat => Sys2Proof.Machine.execRdbitat s

end Sys2Proof.Machine
end

