-- ==== Sys2Proof/Machine/HostSteps.lean ====
section
/-! DEFINITION. What each host step does (20_memory R51): a command, a byte-store operation, a move of `BC`, an
attach; and the step with nothing issued. -/
namespace Sys2Proof.Machine

/-- A step that puts nothing out. -/
def State.quiet (s : State) : State := { s with output := none, reads := [] }

/-- The command port is driven with `c` (30_encoding R60). -/
def State.drive (s : State) (c : Command) : State := { s with port := c.port, pos := c.pos }

/-- The block decodes the word before anything else: a command runs, any other word is IllegalCommand
(30_encoding R67, R68; 60_exceptions R183). -/
def runWord (w : CmdWord) (s : State) : Host.Outcome State Fault Refusal :=
  match decode w with
  | .ok i => exec i s
  | .error _ => onPort s fun _ => raise .illegalCommand [] s

/-- The host sets `BC` to a value in `[0, SEQ_LEN]` (44_bytestore_interface R170). -/
def moveBc (v : Nat) (s : State) : Host.Outcome State Fault Refusal :=
  if v ≤ s.seq.len then .next (s.quiet.setBc v) else .fault .hostMoveOutOfRange

/-- `Attach`: the new instance on the port starts at `8 * BC` (70_reset_and_hazards R210, log 15). -/
def attach (port : Nat) (s : State) : Host.Outcome State Fault Refusal :=
  if port < s.bitpos.length then .next { s.quiet with bitpos := s.bitpos.set port (8 * s.bc) }
  else .fault .noSuchPort

/-- One step of the host's order. -/
def runHostStep (h : HostStep) (s : State) : Host.Outcome State Fault Refusal :=
  match h with
  | .command c => runWord c.cmd (s.drive c)
  | .overlap _ _ => .fault .overlappingIssue
  | .byteStore op => .next (byteStore op s)
  | .moveBc v => moveBc v s
  | .attach port => attach port s

end Sys2Proof.Machine
end

