-- ==== Sys2Proof/Machine/Step.lean ====
section
/-! DEFINITION. The step: the next of the host's steps runs; with none left the block holds its state (20_memory R51). -/
namespace Sys2Proof.Machine

/-- One step. With nothing issued the block "holds `BITPOS` and does nothing" (60_exceptions R195, log 17). -/
def step (s : State) : Host.Outcome State Fault Refusal :=
  match s.script with
  | [] => .next s.quiet
  | h :: rest => runHostStep h { s with script := rest }

/-- `s` with the word of a table row issued next, on the port and with the `POS` operand that `s` holds. The block
fetches nothing (10_state R27): the host issues the word (log 3). -/
def State.withFetchWord (s : State) (nbits w : Nat) : State :=
  { s with script := .command ⟨s.port, BitVec.ofNat 16 (w % 2 ^ nbits), s.pos⟩ :: s.script }

end Sys2Proof.Machine
end

