-- ==== Sys2Proof/Safety.lean ====
section
/-! DEFINITION. The terms claims are stated in: the invariant, which host steps the machine has a step for, and what
each command should answer, written from the closed forms of the spec instead of the datapath. -/
namespace Sys2Proof.Machine

/-- What every reachable state meets: the sequence is canonical and inside its length, `BC` is in `[0, SEQ_LEN]`
(10_state R23), every `BITPOS` is at most `8 * SEQ_LEN` (R21), positions fit 64 bits (00_scope R9), and the open
port has an instance. -/
abbrev State.Inv (s : State) : Prop :=
  s.seq.bytes.wf = true ∧ (∀ c ∈ s.seq.bytes, c.1 < s.seq.len) ∧ s.bc ≤ s.seq.len ∧
    (∀ p ∈ s.bitpos, p ≤ 8 * s.seq.len) ∧ 8 * s.seq.len < 2 ^ 64 ∧ s.port < s.bitpos.length

/-- The host steps the machine has a step for; a run is safe while every step the host issues is one. -/
def HostStep.admitted (s : State) : HostStep → Bool
  | .command c => decide (c.port < s.bitpos.length)
  | .overlap _ _ => false
  | .byteStore _ => true
  | .moveBc v => decide (v ≤ s.seq.len)
  | .attach port => decide (port < s.bitpos.length)

/-- The state a command starts from: its host step is gone and the port is driven. -/
def State.issued (s : State) (c : Command) (rest : List HostStep) : State :=
  { s with script := rest, port := c.port, pos := c.pos }

/-- `s` with a response on the open port, and nothing else changed but the trace of byte reads. -/
def State.answers (s : State) (status : BitVec 2) (result : Word) (reads : List Nat) : State :=
  { s with output := some (.response ⟨s.port, status, result⟩), reads := reads }

/-- `s` with the open port's `BITPOS` at `p` and `BC` at `p div 8`, and nothing else changed (40_datapath R88). -/
def State.advanced (s : State) (p : Nat) : State := { s with bitpos := s.bitpos.set s.port p, bc := p / 8 }

/-- The bytes a field of `n >= 1` bits at `start` covers, in order (40_datapath R86). -/
def bytesOfField (start n : Nat) : List Nat := List.range' (start / 8) ((start + n - 1) / 8 + 1 - start / 8)

/-- The bytes from `start` to the end of the sequence: those read before an overrun raises (40_datapath R86). -/
def bytesToEnd (q : Sequence) (start : Nat) : List Nat := List.range' (start / 8) (q.len - start / 8)

/-- The signed value of a `w`-bit pattern `v < 2^w` (40_datapath R84). -/
def signedValue (w v : Nat) : Int := if 2 ^ (w - 1) ≤ v then (v : Int) - 2 ^ w else v

/-- An unsigned `RESULT` (30_encoding R64). -/
def unsignedResult (v : Nat) : Word := BitVec.ofNat 64 v

/-- A signed `RESULT` of width `w` (30_encoding R64). -/
def signedResult (w v : Nat) : Word := BitVec.ofInt 64 (signedValue w v)

/-- A boolean `RESULT` (30_encoding R64). -/
def boolResult (b : Bool) : Word := if b then 1#64 else 0#64

/-- What a relative read of widths `0 .. wmax` does from `BITPOS = p` (40_datapath R86, R88 to R90). -/
def relativeOutcome (s : State) (p w wmax : Nat) (result : Nat → Word) : State :=
  if wmax < w then s.answers 0b01#2 0#64 []
  else if w = 0 then s.answers 0b00#2 0#64 []
  else if 8 * s.seq.len < p + w then s.answers 0b10#2 0#64 (bytesToEnd s.seq p)
  else (s.advanced (p + w)).answers 0b00#2 (result (fieldValue s.seq p w)) (bytesOfField p w)

/-- What an absolute read of widths `1 .. 32` does at position `p` (40_datapath R86, R89, R92). -/
def absoluteOutcome (s : State) (p w : Nat) (result : Nat → Word) : State :=
  if w = 0 ∨ 32 < w then s.answers 0b01#2 0#64 []
  else if 8 * s.seq.len < p + w then s.answers 0b10#2 0#64 (bytesToEnd s.seq p)
  else s.answers 0b00#2 (result (fieldValue s.seq p w)) (bytesOfField p w)

/-- The bits a command reads; 0 for `GETPOS` (30_encoding R66). -/
def fieldWidth : Instr → Nat
  | .getpos => 0
  | .rdu w | .rdsi w | .rdsl w | .rdul w | .rduat w | .rdsat w => w
  | .rdbit | .rdbitat => 1

/-- The relative reads (41_relative_reads R100). -/
def relative : Instr → Bool
  | .rdu _ | .rdbit | .rdsi _ | .rdsl _ | .rdul _ => true
  | .getpos | .rduat _ | .rdsat _ | .rdbitat => false

/-- The absolute reads (42_absolute_reads R120). -/
def absolute : Instr → Bool
  | .rduat _ | .rdsat _ | .rdbitat => true
  | .getpos | .rdu _ | .rdbit | .rdsi _ | .rdsl _ | .rdul _ => false

/-- The causes of WidthError (60_exceptions R181). -/
def widthWrong : Instr → Bool
  | .rdu w => decide (16 < w)
  | .rdsi w => decide (32 < w)
  | .rdsl w => decide (64 < w)
  | .rdul w => decide (64 < w)
  | .rduat w => decide (w = 0) || decide (32 < w)
  | .rdsat w => decide (w = 0) || decide (32 < w)
  | .getpos | .rdbit | .rdbitat => false

/-- The start position of a read: `POS` for an absolute read, `BITPOS` for a relative one (60_exceptions R182). -/
def startOf (i : Instr) (s : State) (bitpos : Nat) : Nat := if absolute i then s.pos.toNat else bitpos

/-- The cause of OutOfRangeError (60_exceptions R182). -/
def pastEnd (i : Instr) (s : State) (bitpos : Nat) : Bool :=
  decide (1 ≤ fieldWidth i) && decide (8 * s.seq.len < startOf i s bitpos + fieldWidth i)

/-- The words that encode no command, by their fields (30_encoding R68). -/
def illegalWord (c : CmdWord) : Bool :=
  decide (c.toNat / 2048 ≠ 0) || decide (9 ≤ c.toNat % 16)
    || (decide (c.toNat % 16 = 0 ∨ c.toNat % 16 = 2 ∨ c.toNat % 16 = 8) && decide (c.toNat / 16 % 128 ≠ 0))

/-- The status a word has to answer with, given its port's `BITPOS`: IllegalCommand, then WidthError, then
OutOfRangeError (60_exceptions R180, R185). `s` holds the `POS` operand. -/
def statusOf (c : CmdWord) (s : State) (bitpos : Nat) : BitVec 2 :=
  match decode c with
  | .error _ => 0b11#2
  | .ok i => if widthWrong i then 0b01#2 else if pastEnd i s bitpos then 0b10#2 else 0b00#2

/-- The number `n` bytes at `a` stand for in a byte order (44_bytestore_interface R167). -/
def bytesValue (o : ByteOrder) (q : Sequence) (a n : Nat) : Nat :=
  match o with
  | .msbFirst => ∑ k ∈ Finset.range n, (q.bytes.read (a + k)).toNat * 256 ^ (n - 1 - k)
  | .lsbFirst => ∑ k ∈ Finset.range n, (q.bytes.read (a + k)).toNat * 256 ^ k

/-- `s` after a byte-store operation that leaves `BC` at `bc` and puts out `r`; nothing else changed. -/
def State.stored (s : State) (rest : List HostStep) (bc : Nat) (r : ByteStoreResult) : State :=
  { s with script := rest, bc := bc, output := some (.byteStore r), reads := [] }

/-- The operation moves `BC` when it succeeds (44_bytestore_interface R161 to R169). -/
def movesBc : ByteStoreOp → Bool
  | .readByte | .readSlice _ | .readUnsigned _ | .readSignedInt _ | .readSignedLong _ | .readUnsignedWide _ => true
  | .readSliceAt _ _ | .position | .remaining | .length => false

/-- Commands of one port run one after the other, each answering `OK` (41_relative_reads R100). -/
def runOk : List Instr → State → Option State
  | [], s => some s
  | i :: is, s =>
    match exec i s with
    | .next t =>
      match t.output with
      | some (.response r) => if r.status = 0b00#2 then runOk is t else none
      | some (.byteStore _) => none
      | none => none
    | .fault _ => none
    | .refused _ => none

end Sys2Proof.Machine
end

