-- ==== Sys2Proof/Certificates/Slice0/Obligations.lean ====
section
/-! DEFINITION. What is claimed of the model. Nothing is proved here. -/
open Sys2Proof Sys2Proof.Machine

/-! ## Reset, encoding and the step -/

/-- 10_state R33, 70_reset_and_hazards R210, R211: the values after attach, for every construction. The idle ports are
the model's choice (log 4), and so are the parameters behind `State.reset` but for `INIT_BC = 0` and one instance (log 5). -/
def Obligations.BootHoldsTheAttachValues : Prop :=
  (∀ p : Params,
    (State.boot p).bitpos = List.replicate p.nViews (8 * p.initBc) ∧ (State.boot p).bc = p.initBc ∧
    (State.boot p).byteOrder = p.byteOrder ∧ (State.boot p).seq.len = p.seq.length ∧
    (∀ i, (State.boot p).seq.memRead i = p.seq[i]?) ∧
    (State.boot p).output = none ∧ (State.boot p).script = []) ∧
  State.reset.bitpos = [0] ∧ State.reset.bc = 0

/-- 30_encoding R61, R62, R66: no bit of a command is lost in its word. -/
def Obligations.DecodeOfEncodeIsTheCommand : Prop :=
  ∀ i : Instr, i.wf = true → decode (encode i) = .ok i

/-- 30_encoding R61, R67, R69: a word stands for one command at most, and nothing in it is dropped. -/
def Obligations.EncodeOfDecodeIsTheWord : Prop :=
  ∀ (c : CmdWord) (i : Instr), decode c = .ok i → i.wf = true ∧ encode i = c

/-- 30_encoding R66 and spec/opcode_table.json: an accepted word lies in the row of its mnemonic and in no other,
and any other word lies in none. -/
def Obligations.DecoderAgreesWithTheOpcodeTable : Prop :=
  ∀ c : CmdWord, (opcodeTable.filter (fun r => r.holds c)).map Row.mnemonic =
    match decode c with
    | .ok i => [i.mnemonic]
    | .error _ => []

/-- Words of 30_encoding, 41_relative_reads, 42_absolute_reads and 95_test_vectors, as the spec writes them. -/
def Obligations.WordsOfTheSpecDecode : Prop :=
  decode 0x0000#16 = .ok .getpos ∧ decode 0x0011#16 = .ok (.rdu 1) ∧ decode 0x07F1#16 = .ok (.rdu 127) ∧
  decode 0x0002#16 = .ok .rdbit ∧ decode 0x0053#16 = .ok (.rdsi 5) ∧ decode 0x0404#16 = .ok (.rdsl 64) ∧
  decode 0x0405#16 = .ok (.rdul 64) ∧ decode 0x0206#16 = .ok (.rduat 32) ∧ decode 0x0087#16 = .ok (.rdsat 8) ∧
  decode 0x0008#16 = .ok .rdbitat ∧ decode 0x0012#16 = .error .widthOnFixed ∧
  decode 0x0800#16 = .error .reservedBits ∧ decode 0x0009#16 = .error .reservedOpcode

/-- 30_encoding R70: what the assembler writes, and exactly what it rejects (a width that is over a command's maximum
is not rejected). A line whose `<pos>` is present or absent against the syntax is no line. -/
def Obligations.AssemblerWritesTheCommand : Prop :=
  (∀ (i : Instr) (pos : Option Nat) (c : CmdWord) (p : Word), assemble i pos = some (c, p) →
    decode c = .ok i ∧ p.toNat = pos.getD 0) ∧
  (∀ (i : Instr) (pos : Option Nat), assemble i pos = none ↔
    127 < fieldWidth i ∨ pos.isSome ≠ absolute i ∨ 2 ^ 64 ≤ pos.getD 0)

/-- 30_encoding R60, R67; 20_memory R51: the next of the host's steps, a command, runs as `exec` on the driven port. -/
def Obligations.StepRunsTheIssuedCommand : Prop :=
  ∀ (s : State) (c : Command) (rest : List HostStep) (i : Instr),
    s.script = .command c :: rest → decode c.cmd = .ok i → step s = exec i (s.issued c rest)

/-- The word of a table row, issued next, runs as its command (the model's interface, log 3). -/
def Obligations.FetchWordIsIssuedNext : Prop :=
  ∀ (s : State) (w : Nat) (i : Instr), decodeTableWord 16 w = some i → step (s.withFetchWord 16 w) = exec i s

/-- 30_encoding R68, 60_exceptions R183: the words that encode no command, and what they answer. -/
def Obligations.IllegalWordsAnswerIllegalCommand : Prop :=
  (∀ c : CmdWord, illegalWord c = true ↔ ∃ e, decode c = .error e) ∧
  (∀ (s : State) (c : Command) (rest : List HostStep) (p : Nat),
    s.script = .command c :: rest → s.bitpos[c.port]? = some p → illegalWord c.cmd = true →
    step s = .next ((s.issued c rest).answers 0b11#2 0#64 []))

/-- 60_exceptions R181, R182, R185: the status of every word, one error at most and the first cause in the order; an
error's `RESULT` is 0. -/
def Obligations.EveryWordAnswersItsStatus : Prop :=
  ∀ (s : State) (c : Command) (rest : List HostStep) (p : Nat),
    s.script = .command c :: rest → s.bitpos[c.port]? = some p →
    ∃ t r, step s = .next t ∧
      t.output = some (.response ⟨c.port, statusOf c.cmd (s.issued c rest) p, r⟩) ∧
      (statusOf c.cmd (s.issued c rest) p ≠ 0b00#2 → r = 0#64)

/-- 60_exceptions R184: an error writes nothing, and the command after it runs as if it had not been issued. -/
def Obligations.ErrorsChangeNothing : Prop :=
  ∀ (s t : State) (c : Command) (rest : List HostStep) (st : BitVec 2) (r : Word),
    s.script = .command c :: rest → step s = .next t → t.output = some (.response ⟨c.port, st, r⟩) → st ≠ 0b00#2 →
    t = (s.issued c rest).answers st 0#64 t.reads ∧ r = 0#64 ∧
    ∀ (c' : Command) (rest' : List HostStep), rest = .command c' :: rest' → step t = step { s with script := rest }

/-! ## The datapath -/

/-- 40_datapath R83: the value of an extraction inside the sequence. -/
def Obligations.ExtractReadsTheField : Prop :=
  ∀ (q : Sequence) (start n : Nat), 1 ≤ n → n ≤ 64 → start + n ≤ 8 * q.len →
    ∃ acc : Word, (extract q start n).field = some (start + n, acc) ∧
      acc.toNat = (∑ k ∈ Finset.range n, (q.streamBit (start + k)).toNat * 2 ^ (n - 1 - k)) ∧ acc.toNat < 2 ^ n

/-- 40_datapath R86, 20_memory R43: the bytes an extraction reads, each once and in order, nine at most; and the exact
range condition, in both forms. -/
def Obligations.ExtractReadsEachByteOnce : Prop :=
  ∀ (q : Sequence) (start n : Nat), 1 ≤ n → n ≤ 64 →
    ((extract q start n).field = none ↔ q.len ≤ (start + n - 1) / 8) ∧
    (q.len ≤ (start + n - 1) / 8 ↔ 8 * q.len < start + n) ∧
    ((extract q start n).field ≠ none →
      (extract q start n).reads = List.range' (start / 8) ((start + n - 1) / 8 + 1 - start / 8)) ∧
    ((extract q start n).field = none → (extract q start n).reads = List.range' (start / 8) (q.len - start / 8)) ∧
    (extract q start n).reads.length ≤ 9

/-- 40_datapath R82: a pass takes bits `7-k` down to `8-k-t` of the byte, and they are the next stream bits, first bit
most significant. -/
def Obligations.PassTakesTheNextStreamBits : Prop :=
  ∀ (q : Sequence) (i k t : Nat), k < 8 → 1 ≤ t → k + t ≤ 8 →
    partOf (q.bytes.read i) k t = ((q.bytes.read i).extractLsb' (8 - k - t) t).setWidth 8 ∧
    ∀ j < t, (partOf (q.bytes.read i) k t).getLsbD (t - 1 - j) = q.streamBit (8 * i + k + j)

/-- 40_datapath R84, R93: the sign extender is exact at every width from 1 to 64, and the conversions agree with it. -/
def Obligations.SignExtensionIsExact : Prop :=
  ∀ (raw : Word) (w : Nat), 1 ≤ w → w ≤ 64 → raw.toNat < 2 ^ w →
    (toSigned raw w).toInt = (if raw.getLsbD (w - 1) then (raw.toNat : Int) - 2 ^ w else raw.toNat) ∧
    signExt raw w = (toSigned raw w).toInt ∧
    -(2 : Int) ^ (w - 1) ≤ signExt raw w ∧ signExt raw w ≤ 2 ^ (w - 1) - 1 ∧
    (w ≤ 32 → ((toSigned raw w).setWidth 32).toInt = signExt raw w) ∧
    toUnsigned raw w = raw ∧
    toBoolean raw 1 = (if raw.getLsbD 0 then 1#64 else 0#64)

/-- 40_datapath R85: the three 64-bit forms of the sign extension, 64 bits included. -/
def Obligations.SixtyFourBitSignFormsAgree : Prop :=
  ∀ (raw : Word) (w : Nat), 1 ≤ w → w ≤ 64 → raw.toNat < 2 ^ w → raw.getLsbD (w - 1) = true →
    (signFormA raw w).toInt = signExt raw w ∧ (signFormB raw w).toInt = signExt raw w ∧
    (signFormC raw w).toInt = signExt raw w

/-- 20_memory R46, 40_datapath R86: a field depends on the bytes it covers and on nothing else of the sequence. -/
def Obligations.FieldDependsOnlyOnItsBytes : Prop :=
  ∀ (q q' : Sequence) (start n : Nat), 1 ≤ n → n ≤ 64 → q.len = q'.len →
    (∀ i, start / 8 ≤ i → i ≤ (start + n - 1) / 8 → q.bytes.read i = q'.bytes.read i) →
    extract q start n = extract q' start n

/-- 20_memory R47: a wide field is its two adjacent parts, most significant first. -/
def Obligations.WideFieldIsItsParts : Prop :=
  ∀ (q : Sequence) (start m n : Nat), 1 ≤ m → 1 ≤ n → m + n ≤ 64 → start + m + n ≤ 8 * q.len →
    ∃ x y z : Word, (extract q start (m + n)).field = some (start + m + n, x) ∧
      (extract q start m).field = some (start + m, y) ∧ (extract q (start + m) n).field = some (start + m + n, z) ∧
      x = y <<< n ||| z

/-! ## The commands, each as the whole next state -/

/-- 43_cursor_query R140. -/
def Obligations.GetposAnswersTheCursor : Prop :=
  decode 0x0000#16 = .ok .getpos ∧ (∀ w, 1 ≤ w → w < 128 → decode (BitVec.ofNat 16 (w * 16)) = .error .widthOnFixed) ∧
  ∀ (s : State) (p : Nat), s.bitpos[s.port]? = some p →
    exec .getpos s = .next (s.answers 0b00#2 (BitVec.ofNat 64 p) []) ∧
    (s.Inv → (BitVec.ofNat 64 p).toNat = p)

/-- 41_relative_reads R101. -/
def Obligations.RduReadsAnUnsignedField : Prop :=
  (∀ w < 128, decode (BitVec.ofNat 16 (w * 16 + 1)) = .ok (.rdu w)) ∧
  (∀ (s : State) (w p : Nat), s.bitpos[s.port]? = some p →
    exec (.rdu w) s = .next (relativeOutcome s p w 16 unsignedResult)) ∧
  ∀ (s t : State) (w : Nat) (r : Response), exec (.rdu w) s = .next t → t.output = some (.response r) →
    r.result.toNat ≤ 65535

/-- 41_relative_reads R102, 30_encoding R71. -/
def Obligations.RdbitReadsOneBit : Prop :=
  decode 0x0002#16 = .ok .rdbit ∧ (∀ w, 1 ≤ w → w < 128 → decode (BitVec.ofNat 16 (w * 16 + 2)) = .error .widthOnFixed) ∧
  (∀ (s : State) (p : Nat), s.bitpos[s.port]? = some p →
    exec .rdbit s = .next (
      if 8 * s.seq.len < p + 1 then s.answers 0b10#2 0#64 []
      else (s.advanced (p + 1)).answers 0b00#2 (boolResult (s.seq.streamBit p)) [p / 8])) ∧
  ∀ s : State, exec .rdbit s = exec (.rdu 1) s

/-- 41_relative_reads R103. -/
def Obligations.RdsiReadsASignedField : Prop :=
  (∀ w < 128, decode (BitVec.ofNat 16 (w * 16 + 3)) = .ok (.rdsi w)) ∧
  (∀ (s : State) (w p : Nat), s.bitpos[s.port]? = some p →
    exec (.rdsi w) s = .next (relativeOutcome s p w 32 (signedResult w))) ∧
  ∀ (s t : State) (w : Nat) (r : Response), 1 ≤ w → exec (.rdsi w) s = .next t → t.output = some (.response r) →
    r.status = 0b00#2 → -(2 : Int) ^ (w - 1) ≤ r.result.toInt ∧ r.result.toInt ≤ 2 ^ (w - 1) - 1 ∧
      (r.result.setWidth 32).toInt = r.result.toInt

/-- 41_relative_reads R104. -/
def Obligations.RdslReadsASignedLongField : Prop :=
  (∀ w < 128, decode (BitVec.ofNat 16 (w * 16 + 4)) = .ok (.rdsl w)) ∧
  (∀ (s : State) (w p : Nat), s.bitpos[s.port]? = some p →
    exec (.rdsl w) s = .next (relativeOutcome s p w 64 (signedResult w))) ∧
  (∀ v < 2 ^ 64, signedResult 64 v = BitVec.ofNat 64 v) ∧
  ∀ (s : State) (w : Nat), w ≤ 32 → exec (.rdsl w) s = exec (.rdsi w) s

/-- 41_relative_reads R105. -/
def Obligations.RdulReadsAnUnsignedLongField : Prop :=
  (∀ w < 128, decode (BitVec.ofNat 16 (w * 16 + 5)) = .ok (.rdul w)) ∧
  (∀ (s : State) (w p : Nat), s.bitpos[s.port]? = some p →
    exec (.rdul w) s = .next (relativeOutcome s p w 64 unsignedResult)) ∧
  (∀ (s : State) (w : Nat), w ≤ 16 → exec (.rdul w) s = exec (.rdu w) s) ∧
  ∀ (s : State) (w p : Nat), s.bitpos[s.port]? = some p → s.seq.streamBit p = false ∨ w = 64 →
    exec (.rdul w) s = exec (.rdsl w) s

/-- 42_absolute_reads R121. -/
def Obligations.RduatReadsAnUnsignedFieldAtPos : Prop :=
  (∀ w < 128, decode (BitVec.ofNat 16 (w * 16 + 6)) = .ok (.rduat w)) ∧
  ∀ (s : State) (w : Nat), s.port < s.bitpos.length →
    exec (.rduat w) s = .next (absoluteOutcome s s.pos.toNat w unsignedResult)

/-- 42_absolute_reads R122. -/
def Obligations.RdsatReadsASignedFieldAtPos : Prop :=
  (∀ w < 128, decode (BitVec.ofNat 16 (w * 16 + 7)) = .ok (.rdsat w)) ∧
  (∀ (s : State) (w : Nat), s.port < s.bitpos.length →
    exec (.rdsat w) s = .next (absoluteOutcome s s.pos.toNat w (signedResult w))) ∧
  ∀ (s t u : State) (w : Nat), 1 ≤ w → w ≤ 32 → s.bitpos[s.port]? = some s.pos.toNat →
    exec (.rdsat w) s = .next t → exec (.rdsi w) s = .next u → t.output = u.output

/-- 42_absolute_reads R123, 30_encoding R71. -/
def Obligations.RdbitatReadsOneBitAtPos : Prop :=
  decode 0x0008#16 = .ok .rdbitat ∧ (∀ w, 1 ≤ w → w < 128 → decode (BitVec.ofNat 16 (w * 16 + 8)) = .error .widthOnFixed) ∧
  (∀ s : State, s.port < s.bitpos.length →
    exec .rdbitat s = .next (
      if 8 * s.seq.len ≤ s.pos.toNat then s.answers 0b10#2 0#64 []
      else s.answers 0b00#2 (boolResult (s.seq.streamBit s.pos.toNat)) [s.pos.toNat / 8])) ∧
  ∀ s : State, exec .rdbitat s = exec (.rduat 1) s

/-! ## Rules over families of commands -/

/-- 40_datapath R92: an absolute read writes neither cursor, on success or on error. -/
def Obligations.AbsoluteReadsLeaveTheCursors : Prop :=
  ∀ (i : Instr) (s t : State), absolute i = true → exec i s = .next t → t.bitpos = s.bitpos ∧ t.bc = s.bc

/-- 40_datapath R90: a relative read of no bits answers 0 and does nothing else, wherever the cursors stand. -/
def Obligations.ZeroWidthReadsDoNothing : Prop :=
  ∀ (i : Instr) (s : State), i ∈ [Instr.rdu 0, .rdsi 0, .rdsl 0, .rdul 0] → s.port < s.bitpos.length →
    exec i s = .next (s.answers 0b00#2 0#64 [])

/-- 40_datapath R87, R88: the commit of a relative read that completes; the earlier `BC` plays no part. -/
def Obligations.RelativeReadsCommitBothCursors : Prop :=
  ∀ (i : Instr) (s t : State) (p port : Nat) (r : Word), relative i = true → 1 ≤ fieldWidth i →
    s.bitpos[s.port]? = some p → exec i s = .next t → t.output = some (.response ⟨port, 0b00#2, r⟩) →
    t.bitpos = s.bitpos.set s.port (p + fieldWidth i) ∧ t.bc = (p + fieldWidth i) / 8

/-- 42_absolute_reads R124: from one position, relative and absolute reads answer the same; for widths 33 to 64 the
relative read answers the raw value of the extraction there. -/
def Obligations.AbsoluteAndRelativeReadsAgree : Prop :=
  ∀ (s : State) (w : Nat), s.bitpos[s.port]? = some s.pos.toNat →
    (1 ≤ w → w ≤ 32 →
      (∃ t u, exec (.rduat w) s = .next t ∧ exec (.rdul w) s = .next u ∧ t.output = u.output ∧
        t.bitpos = s.bitpos ∧ t.bc = s.bc) ∧
      (∃ t u, exec (.rdsat w) s = .next t ∧ exec (.rdsi w) s = .next u ∧ t.output = u.output ∧
        t.bitpos = s.bitpos ∧ t.bc = s.bc)) ∧
    (33 ≤ w → w ≤ 64 → ∀ stop raw, (extract s.seq s.pos.toNat w).field = some (stop, raw) →
      ∃ u, exec (.rdul w) s = .next u ∧ u.output = some (.response ⟨s.port, 0b00#2, raw⟩))

/-- 41_relative_reads R100: relative reads that all succeed advance the cursor by the sum of their widths. -/
def Obligations.ConsecutiveReadsAddTheirWidths : Prop :=
  ∀ (is : List Instr) (s t : State) (p : Nat), (∀ i ∈ is, relative i = true) → s.bitpos[s.port]? = some p →
    runOk is s = some t → t.bitpos[s.port]? = some (p + (is.map fieldWidth).sum)

/-- 20_memory R45, 10_state R22, R34, 44_bytestore_interface R153: no command reads `BC` or `BYTE_ORDER`. -/
def Obligations.CommandsReadNeitherByteCursorNorOrder : Prop :=
  ∀ (i : Instr) (s t : State) (b : Nat) (o : ByteOrder), exec i s = .next t →
    ∃ t', exec i { s with bc := b, byteOrder := o } = .next t' ∧
      t'.output = t.output ∧ t'.bitpos = t.bitpos ∧ t'.reads = t.reads

/-- 30_encoding R63: a command that is no absolute read ignores `POS`. -/
def Obligations.OnlyAbsoluteReadsUsePos : Prop :=
  ∀ (i : Instr) (s t : State) (x : Word), absolute i = false → exec i s = .next t →
    exec i { s with pos := x } = .next { t with pos := x }

/-- 20_memory R44, R49; 60_exceptions R193; 70_reset_and_hazards R216: the frame of every command. A command changes
at most its own instance's `BITPOS`, `BC`, and what it puts out; every byte reads as before. -/
def Obligations.CommandFrame : Prop :=
  ∀ (i : Instr) (s t : State), exec i s = .next t →
    t = { s with bitpos := t.bitpos, bc := t.bc, output := t.output, reads := t.reads } ∧
    (∀ k, k ≠ s.port → t.bitpos[k]? = s.bitpos[k]?) ∧
    (relative i = false → t.bitpos = s.bitpos ∧ t.bc = s.bc) ∧
    ∀ a, t.seq.memRead a = s.seq.memRead a

/-! ## The whole machine -/

/-- 10_state R23, R33; 00_scope R9: the invariant holds after every legal construction, `State.reset` among them. -/
def Obligations.InvariantHoldsAtBoot : Prop :=
  (∀ p : Params, p.legal = true → (State.boot p).Inv) ∧ State.reset.Inv

/-- 10_state R21, R23; 20_memory R44: every step keeps the invariant. -/
def Obligations.EveryStepKeepsTheInvariant : Prop :=
  ∀ s t : State, s.Inv → step s = .next t → t.Inv

/-- 20_memory R44, 10_state R25: nothing writes the sequence, and the configuration stays. -/
def Obligations.SequenceIsNeverWritten : Prop :=
  ∀ s t : State, step s = .next t →
    t.seq = s.seq ∧ t.byteOrder = s.byteOrder ∧ t.bitpos.length = s.bitpos.length ∧
    ∀ a, t.seq.memRead a = s.seq.memRead a

/-- 10_state R21: no step but an attach moves a bit cursor back, and none moves one past the end. -/
def Obligations.BitCursorNeverGoesBack : Prop :=
  ∀ (s t : State) (k a b : Nat), step s = .next t → s.bitpos[k]? = some a → t.bitpos[k]? = some b →
    ((∀ rest, s.script ≠ .attach k :: rest) → a ≤ b) ∧ (s.Inv → b ≤ 8 * s.seq.len)

/-- 10_state R20: `BITPOS` is written only by a relative read that ends `OK` and by attach. -/
def Obligations.OnlyReadsAndAttachWriteBitpos : Prop :=
  ∀ s t : State, step s = .next t → t.bitpos ≠ s.bitpos →
    (∃ k rest, s.script = .attach k :: rest) ∨
    (∃ c rest i r, s.script = .command c :: rest ∧ decode c.cmd = .ok i ∧ relative i = true ∧ 1 ≤ fieldWidth i ∧
      t.output = some (.response ⟨c.port, 0b00#2, r⟩))

/-- 10_state R22, 44_bytestore_interface R160 to R170: what writes `BC`. -/
def Obligations.WhatWritesTheByteCursor : Prop :=
  ∀ s t : State, step s = .next t → t.bc ≠ s.bc →
    (∃ v rest, s.script = .moveBc v :: rest) ∨
    (∃ op rest, s.script = .byteStore op :: rest ∧ movesBc op = true) ∨
    (∃ c rest i r, s.script = .command c :: rest ∧ decode c.cmd = .ok i ∧ relative i = true ∧ 1 ≤ fieldWidth i ∧
      t.output = some (.response ⟨c.port, 0b00#2, r⟩))

/-- 60_exceptions R180, R190: every admitted host step has a step, any other has none (log 12, 13, 14), and no step
is refused. -/
def Obligations.StepCompletesExactlyWhenAdmitted : Prop :=
  ∀ s : State,
    ((∃ t, step s = .next t) ↔ ∀ h rest, s.script = h :: rest → h.admitted s = true) ∧ ∀ r, step s ≠ .refused r

/-- The model's stops, each by its name (log 12, 13, 14): a command, an issued word or an attach on a port without an
instance (30_encoding R60), and a move of `BC` that 44_bytestore_interface R170 does not allow. -/
def Obligations.StopsOutsideTheSpecAreNamed : Prop :=
  (∀ (i : Instr) (s : State), s.bitpos.length ≤ s.port → exec i s = .fault .noSuchPort) ∧
  (∀ (s : State) (c : Command) (rest : List HostStep), s.script = .command c :: rest → s.bitpos.length ≤ c.port →
    step s = .fault .noSuchPort) ∧
  (∀ (s : State) (k : Nat) (rest : List HostStep), s.script = .attach k :: rest → s.bitpos.length ≤ k →
    step s = .fault .noSuchPort) ∧
  ∀ (s : State) (v : Nat) (rest : List HostStep), s.script = .moveBc v :: rest → s.seq.len < v →
    step s = .fault .hostMoveOutOfRange

/-- 10_state R28, R31: what a step has put out, no later step reads. -/
def Obligations.OutputsAreNeverRead : Prop :=
  ∀ (s : State) (o : Option Output) (r : List Nat), step { s with output := o, reads := r } = step s

/-- 70_reset_and_hazards R217, 20_memory R51: an overlapping issue has no step. Naming it as one host step
that stops with a fault is the model's choice (log 12). -/
def Obligations.OverlappingIssueHasNoStep : Prop :=
  ∀ (s : State) (a b : Command) (rest : List HostStep), s.script = .overlap a b :: rest →
    step s = .fault .overlappingIssue

/-- 44_bytestore_interface R170: the host moves `BC`. -/
def Obligations.HostMoveSetsTheByteCursor : Prop :=
  ∀ (s : State) (v : Nat) (rest : List HostStep), s.script = .moveBc v :: rest → v ≤ s.seq.len →
    step s = .next { s with script := rest, bc := v, output := none, reads := [] }

/-- 70_reset_and_hazards R210: attach starts the instance at `8 * BC` and writes nothing else. -/
def Obligations.AttachStartsAtTheByteCursor : Prop :=
  ∀ (s : State) (k : Nat) (rest : List HostStep), s.script = .attach k :: rest → k < s.bitpos.length →
    step s = .next { s with script := rest, bitpos := s.bitpos.set k (8 * s.bc), output := none, reads := [] } ∧
    (s.bc ≤ s.seq.len → 8 * s.bc ≤ 8 * s.seq.len)

/-- 60_exceptions R195: with nothing issued the state is held. -/
def Obligations.NothingIssuedHoldsTheState : Prop :=
  ∀ s : State, s.script = [] → step s = .next { s with output := none, reads := [] }

/-! ## The byte store's own operations -/

/-- 44_bytestore_interface R161. -/
def Obligations.ReadByteReturnsTheNextByte : Prop :=
  ∀ (s : State) (rest : List HostStep), s.script = .byteStore .readByte :: rest →
    step s = .next (
      if s.seq.len ≤ s.bc then s.stored rest s.bc .outOfRangeError
      else s.stored rest (s.bc + 1) (.byte (s.seq.bytes.read s.bc)))

/-- 44_bytestore_interface R162, R163, for lengths of 1 and more (R168 has length 0). -/
def Obligations.SlicesCopyTheirSpan : Prop :=
  ∀ (s : State) (rest : List HostStep) (a n : Nat), 1 ≤ n →
    (s.script = .byteStore (.readSlice n) :: rest → step s = .next (
      if s.seq.len < s.bc + n then s.stored rest s.bc .outOfRangeError
      else s.stored rest (s.bc + n) (.slice ((List.range n).map fun k => s.seq.bytes.read (s.bc + k))))) ∧
    (s.script = .byteStore (.readSliceAt a n) :: rest → step s = .next (
      if s.seq.len < a + n then s.stored rest s.bc .outOfRangeError
      else s.stored rest s.bc (.slice ((List.range n).map fun k => s.seq.bytes.read (a + k)))))

/-- 44_bytestore_interface R164, R165, R166, R167, for lengths of 1 and more (R168 has length 0): the limits, the byte
order, and the two interpretations. -/
def Obligations.NumbersAssembleInByteOrder : Prop :=
  ∀ (s : State) (rest : List HostStep) (op : ByteStoreOp) (n nmax : Nat) (signed : Bool),
    s.script = .byteStore op :: rest → 1 ≤ n →
    (op, nmax, signed) ∈ [(.readUnsigned n, 2, false), (.readSignedInt n, 4, true), (.readSignedLong n, 8, true),
      (.readUnsignedWide n, 8, false)] →
    step s = .next (
      if nmax < n then s.stored rest s.bc .widthError
      else if s.seq.len < s.bc + n then s.stored rest s.bc .outOfRangeError
      else s.stored rest (s.bc + n) (.number (
        if signed then signedValue (8 * n) (bytesValue s.byteOrder s.seq s.bc n)
        else bytesValue s.byteOrder s.seq s.bc n)))

/-- 44_bytestore_interface R167 beside 40_datapath R83: most significant byte first, the byte store reads the field
the block reads there. -/
def Obligations.BigEndianNumberIsTheBitField : Prop :=
  ∀ (q : Sequence) (a n : Nat), 1 ≤ n → n ≤ 8 → a + n ≤ q.len →
    ∃ x : Word, (extract q (8 * a) (8 * n)).field = some (8 * (a + n), x) ∧ x.toNat = bytesValue .msbFirst q a n

/-- 44_bytestore_interface R160: an operation changes `BC` at most, and not even that when it fails. -/
def Obligations.ByteStoreFrame : Prop :=
  ∀ (s : State) (op : ByteStoreOp) (rest : List HostStep), s.script = .byteStore op :: rest →
    ∃ b r, step s = .next (s.stored rest b r) ∧ (r = .outOfRangeError ∨ r = .widthError → b = s.bc)

/-- 44_bytestore_interface R168: a zero-length request has one of two outcomes, and the spec leaves open which; `BC`
is unchanged in both. That a `readSliceAt` of length 0 does not look at its position is the model's choice (log 23). -/
def Obligations.ZeroLengthRequestIsTheOpenParameter : Prop :=
  ∀ (s : State) (rest : List HostStep) (op : ByteStoreOp) (r : ByteStoreResult) (a : Nat),
    s.script = .byteStore op :: rest →
    (op, r) ∈ [(.readSlice 0, .slice []), (.readSliceAt a 0, .slice []), (.readUnsigned 0, .number 0),
      (.readSignedInt 0, .number 0), (.readSignedLong 0, .number 0), (.readUnsignedWide 0, .number 0)] →
    step s = .next (s.stored rest s.bc (if Config.bvZeroWidth = .empty then r else .widthError))

/-- 44_bytestore_interface R169. -/
def Obligations.AccessorsChangeNothing : Prop :=
  ∀ (s : State) (rest : List HostStep) (op : ByteStoreOp) (v : Int), s.script = .byteStore op :: rest →
    (op, v) ∈ [(.position, (s.bc : Int)), (.remaining, (s.seq.len : Int) - s.bc), (.length, (s.seq.len : Int))] →
    step s = .next (s.stored rest s.bc (.number v))

/-- 70_reset_and_hazards R214: after a relative read that ends inside a byte, `readByte()` returns the whole of it. -/
def Obligations.PartlyConsumedByteIsReadWhole : Prop :=
  ∀ (s t : State) (c : Command) (rest : List HostStep) (i : Instr) (p : Nat) (r : Word),
    s.script = .command c :: .byteStore .readByte :: rest → decode c.cmd = .ok i → relative i = true →
    1 ≤ fieldWidth i → s.bitpos[c.port]? = some p → step s = .next t →
    t.output = some (.response ⟨c.port, 0b00#2, r⟩) → (p + fieldWidth i) % 8 ≠ 0 →
    t.bc = (p + fieldWidth i) / 8 ∧
    step t = .next (t.stored rest (t.bc + 1) (.byte (s.seq.bytes.read ((p + fieldWidth i) / 8))))
end

