-- ==== Sys2Proof/Laws/Memory.lean ====
section
/-! SUPPORT. A memory made from bytes is canonical and reads back the bytes. -/
namespace Sys2Proof.Machine

@[simp] theorem Memory.read_nil (i : Nat) : Memory.read [] i = unlistedByte := rfl

@[simp] theorem Memory.read_cons (a : Nat) (b : Byte) (m : Memory) (i : Nat) :
    Memory.read ((a, b) :: m) i = if a = i then b else Memory.read m i := rfl

/-- Every cell of `ofBytesFrom a bs` lies in `[a, a + bs.length)`. -/
theorem Memory.ofBytesFrom_addresses (bs : List Byte) :
    ∀ a, ∀ c ∈ Memory.ofBytesFrom a bs, a ≤ c.1 ∧ c.1 < a + bs.length := by
  induction bs with
  | nil => intro a c h; simp [Memory.ofBytesFrom] at h
  | cons b bs ih =>
    intro a c h
    unfold Memory.ofBytesFrom at h
    split at h
    · have := ih (a + 1) c h
      simp only [List.length_cons]; omega
    · rcases List.mem_cons.mp h with rfl | h
      · simp
      · have := ih (a + 1) c h
        simp only [List.length_cons]; omega

/-- Construction makes the canonical form. -/
theorem Memory.ofBytesFrom_wf (bs : List Byte) : ∀ a, (Memory.ofBytesFrom a bs).wf = true := by
  induction bs with
  | nil => intro a; rfl
  | cons b bs ih =>
    intro a
    unfold Memory.ofBytesFrom
    split
    · exact ih (a + 1)
    · rename_i hb
      have hall : ∀ c ∈ Memory.ofBytesFrom (a + 1) bs, a < c.1 := fun c hc =>
        (Memory.ofBytesFrom_addresses bs (a + 1) c hc).1
      simp only [Memory.wf, ih (a + 1), Bool.and_true, Bool.and_eq_true, bne_iff_ne, ne_eq, hb,
        not_false_eq_true, true_and, List.all_eq_true, decide_eq_true_eq]
      exact hall

theorem Memory.read_of_absent (m : Memory) (i : Nat) (h : ∀ c ∈ m, c.1 ≠ i) : m.read i = unlistedByte := by
  induction m with
  | nil => rfl
  | cons c m ih =>
    obtain ⟨a, b⟩ := c
    rw [Memory.read_cons, if_neg (h (a, b) (by simp))]
    exact ih fun c hc => h c (by simp [hc])

/-- Reading back a constructed memory. -/
theorem Memory.read_ofBytesFrom (bs : List Byte) :
    ∀ a k, (Memory.ofBytesFrom a bs).read (a + k) = bs.getD k unlistedByte := by
  induction bs with
  | nil => intro a k; simp [Memory.ofBytesFrom]
  | cons b bs ih =>
    intro a k
    unfold Memory.ofBytesFrom
    cases k with
    | zero =>
      split
      · rename_i hb
        rw [Memory.read_of_absent _ _ fun c hc => ?_]
        · simp [hb]
        · have := (Memory.ofBytesFrom_addresses bs (a + 1) c hc).1; omega
      · simp
    | succ k =>
      have h := ih (a + 1) k
      rw [show a + 1 + k = a + (k + 1) by omega] at h
      split
      · simpa using h
      · rw [Memory.read_cons, if_neg (by omega)]; simpa using h

/-- The byte-read port (44_bytestore_interface R150). -/
theorem Sequence.memRead_of_lt {q : Sequence} {i : Nat} (h : i < q.len) : q.memRead i = some (q.bytes.read i) :=
  if_pos h

theorem Sequence.memRead_of_le {q : Sequence} {i : Nat} (h : q.len ≤ i) : q.memRead i = none :=
  if_neg (by omega)

theorem Sequence.memRead_eq_some {q : Sequence} {i : Nat} {b : Byte} :
    q.memRead i = some b ↔ i < q.len ∧ q.bytes.read i = b := by
  unfold Sequence.memRead; split <;> simp [*]

end Sys2Proof.Machine
end

