-- ==== Sys2Proof/Laws/Extract.lean ====
section
/-! SUPPORT. What one pass of the extraction loop does, in terms of stream bits (40_datapath R82). -/
namespace Sys2Proof.Machine

@[simp] theorem fieldValue_zero (q : Sequence) (b : Nat) : fieldValue q b 0 = 0 := by simp [fieldValue]

theorem fieldValue_succ (q : Sequence) (b n : Nat) :
    fieldValue q b (n + 1) = 2 * fieldValue q b n + (q.streamBit (b + n)).toNat := by
  unfold fieldValue
  rw [Finset.sum_range_succ, Finset.mul_sum]
  congr 1
  · refine Finset.sum_congr rfl fun k hk => ?_
    have hk := Finset.mem_range.mp hk
    rw [show n + 1 - 1 - k = (n - 1 - k) + 1 by omega, pow_succ]; ring
  · simp

/-- Two adjacent fields make one (20_memory R47). -/
theorem fieldValue_add (q : Sequence) (b m : Nat) :
    ∀ n, fieldValue q b (m + n) = fieldValue q b m * 2 ^ n + fieldValue q (b + m) n := by
  intro n
  induction n with
  | zero => simp
  | succ n ih =>
    rw [show m + (n + 1) = (m + n) + 1 by omega, fieldValue_succ, ih, fieldValue_succ,
      show b + (m + n) = b + m + n by omega, pow_succ]
    ring

theorem fieldValue_lt (q : Sequence) (b : Nat) : ∀ n, fieldValue q b n < 2 ^ n := by
  intro n
  induction n with
  | zero => simp
  | succ n ih =>
    rw [fieldValue_succ, pow_succ]
    have := Bool.toNat_le (q.streamBit (b + n)); omega

/-- A field inside one byte, as bits of that byte. -/
theorem fieldValue_in_byte (q : Sequence) (i k : Nat) :
    ∀ t, k + t ≤ 8 → fieldValue q (8 * i + k) t = (q.bytes.read i).toNat / 2 ^ (8 - k - t) % 2 ^ t := by
  intro t
  induction t with
  | zero => intro _; simp [Nat.mod_one]
  | succ t ih =>
    intro h
    have hbit : (q.streamBit (8 * i + k + t)).toNat = (q.bytes.read i).toNat / 2 ^ (8 - k - (t + 1)) % 2 := by
      unfold Sequence.streamBit
      rw [show (8 * i + k + t) / 8 = i by omega, show 7 - (8 * i + k + t) % 8 = 8 - k - (t + 1) by omega,
        BitVec.getLsbD, Nat.toNat_testBit]
    rw [fieldValue_succ, ih (by omega), hbit, show 8 - k - t = (8 - k - (t + 1)) + 1 by omega, pow_succ,
      ← Nat.div_div_eq_div_mul]
    generalize (q.bytes.read i).toNat / 2 ^ (8 - k - (t + 1)) = x
    rw [pow_succ', Nat.mod_mul]; omega

/-- The bits a pass takes are stream bits, first bit most significant (40_datapath R82). -/
theorem partOf_toNat (q : Sequence) (i k t : Nat) (h : k + t ≤ 8) :
    (partOf (q.bytes.read i) k t).toNat = fieldValue q (8 * i + k) t := by
  rw [fieldValue_in_byte q i k t h]
  have hc : (q.bytes.read i).toNat < 256 := (q.bytes.read i).isLt
  generalize hx : (q.bytes.read i) = c at hc ⊢
  have hmask : ∀ v : Byte, v &&& 0xFF#8 = v := by decide
  unfold partOf
  rw [hmask, BitVec.toNat_ushiftRight, BitVec.toNat_shiftLeft, Nat.shiftLeft_eq, Nat.shiftRight_eq_div_pow]
  obtain ⟨r, hr⟩ : ∃ r, 8 - k - t = r := ⟨_, rfl⟩
  have e8 : 2 ^ 8 = 2 ^ k * (2 ^ t * 2 ^ r) := by rw [← pow_add, ← pow_add]; congr 1; omega
  have e1 : 2 ^ (8 - t) = 2 ^ k * 2 ^ r := by rw [← pow_add]; congr 1; omega
  rw [hr, e8, e1, mul_comm c.toNat, Nat.mul_mod_mul_left, Nat.mul_div_mul_left _ _ (by positivity),
    mul_comm (2 ^ t), Nat.mod_mul_right_div_self]

/-- What holds at the head of the loop for a datapath that has not raised: `done` bits of the field at `start` are
in the accumulator, the current byte is `bytePos`, and the bytes from `start div 8` to it have been read. -/
structure Datapath.Progress (q : Sequence) (start n : Nat) (d : Datapath) : Prop where
  running  : d.raised = false
  position : start + d.done = 8 * d.bytePos + d.bitOffsetInByte
  offset   : d.bitOffsetInByte ≤ 8
  inside   : d.bytePos < q.len
  current  : d.cur = q.bytes.read d.bytePos
  value    : d.acc.toNat = fieldValue q start d.done
  bounded  : d.done ≤ n
  fresh    : d.done = 0 → d.bitOffsetInByte < 8
  first    : start / 8 ≤ d.bytePos
  trace    : d.reads = List.range' (start / 8) (d.bytePos + 1 - start / 8)

/-- What holds once the byte-read port has signalled out of range: every byte of the field inside the sequence has
been read, and the field does not end inside it. -/
structure Datapath.Overrun (q : Sequence) (start n : Nat) (d : Datapath) : Prop where
  stopped : d.raised = true
  outside : 8 * q.len < start + n
  trace   : d.reads = List.range' (start / 8) (q.len - start / 8)

/-- The first byte is loaded, or it lies outside the sequence. -/
theorem Datapath.start_cases (q : Sequence) (start n : Nat) (hn : 1 ≤ n) :
    (Datapath.start q start).Progress q start n ∧ (Datapath.start q start).done = 0 ∨
      (Datapath.start q start).Overrun q start n := by
  by_cases h : start / 8 < q.len
  · left
    simp only [Datapath.start, Datapath.load, Sequence.memRead_of_lt h]
    refine ⟨⟨rfl, ?_, ?_, h, rfl, ?_, ?_, ?_, ?_, ?_⟩, trivial⟩ <;> simp <;> omega
  · right
    simp only [Datapath.start, Datapath.load, Sequence.memRead_of_le (Nat.le_of_not_lt h)]
    refine ⟨rfl, ?_, ?_⟩
    · omega
    · rw [show q.len - start / 8 = 0 by omega]; rfl

/-- The reload keeps the progress and leaves an offset below 8, or runs past the end. -/
theorem Datapath.reload_cases {q : Sequence} {start n : Nat} {d : Datapath} (h : d.Progress q start n)
    (hn : d.done < n) :
    ((d.reload q).Progress q start n ∧ (d.reload q).bitOffsetInByte < 8 ∧ (d.reload q).done = d.done) ∨
      (d.reload q).Overrun q start n := by
  obtain ⟨h1, h2, h3, h4, h5, h6, h7, h8, h9, h10⟩ := h
  unfold Datapath.reload
  by_cases ho : d.bitOffsetInByte = 8
  · rw [if_pos ho]
    by_cases hi : d.bytePos + 1 < q.len
    · left
      simp only [Datapath.load, Sequence.memRead_of_lt hi]
      refine ⟨⟨h1, ?_, ?_, hi, rfl, h6, h7, ?_, ?_, ?_⟩, ?_, ?_⟩ <;> (try simp only []) <;> (try omega)
      rw [h10, show d.bytePos + 1 + 1 - start / 8 = (d.bytePos + 1 - start / 8) + 1 by omega, List.range'_concat]
      congr 2; omega
    · right
      simp only [Datapath.load, Sequence.memRead_of_le (Nat.le_of_not_lt hi)]
      refine ⟨rfl, ?_, ?_⟩
      · omega
      · rw [h10]; congr 1; omega
  · rw [if_neg ho]
    exact .inl ⟨⟨h1, h2, h3, h4, h5, h6, h7, h8, h9, h10⟩, by omega, rfl⟩

/-- One pass takes at least one bit and keeps the progress, or runs past the end (40_datapath R81, R82). -/
theorem Datapath.pass_cases {q : Sequence} {start n : Nat} {d : Datapath} (h : d.Progress q start n)
    (hn : d.done < n) (hn64 : n ≤ 64) :
    ((d.pass q n).Progress q start n ∧ d.done < (d.pass q n).done ∧ 1 ≤ (d.pass q n).bitOffsetInByte) ∨
      (d.pass q n).Overrun q start n := by
  rcases Datapath.reload_cases h hn with ⟨hp, ho, hd⟩ | hov
  · left
    unfold Datapath.pass
    rw [if_neg (by simp [hp.running])]
    obtain ⟨h1, h2, h3, h4, h5, h6, h7, h8, h9, h10⟩ := hp
    rw [hd] at h2 h6 h7 h8
    have hk : (d.reload q).bitOffsetInByte + min (8 - (d.reload q).bitOffsetInByte) (n - d.done) ≤ 8 := by omega
    have hpart := partOf_toNat q (d.reload q).bytePos _ _ hk
    have hlt := fieldValue_lt q (8 * (d.reload q).bytePos + (d.reload q).bitOffsetInByte)
      (min (8 - (d.reload q).bitOffsetInByte) (n - d.done))
    have hsum := fieldValue_add q start d.done (min (8 - (d.reload q).bitOffsetInByte) (n - d.done))
    have hlast := fieldValue_lt q start (d.done + min (8 - (d.reload q).bitOffsetInByte) (n - d.done))
    have hle : 2 ^ (d.done + min (8 - (d.reload q).bitOffsetInByte) (n - d.done)) ≤ 2 ^ 64 :=
      Nat.pow_le_pow_right (by norm_num) (by omega)
    unfold Datapath.consume
    simp only [hd]
    refine ⟨⟨h1, ?_, ?_, h4, h5, ?_, ?_, ?_, h9, h10⟩, ?_, ?_⟩ <;> (try simp only []) <;> (try omega)
    rw [h2] at hsum
    generalize min (8 - (d.reload q).bitOffsetInByte) (n - d.done) = t at *
    have h64 : 2 ^ t ≤ 2 ^ 64 := Nat.pow_le_pow_right (by norm_num) (by omega)
    rw [BitVec.toNat_or, BitVec.toNat_shiftLeft, BitVec.toNat_setWidth, h6, h5, hpart, Nat.shiftLeft_eq,
      Nat.mod_eq_of_lt (by omega), Nat.mod_eq_of_lt (by omega), hsum, mul_comm, Nat.two_pow_add_eq_or_of_lt hlt]
  · right
    unfold Datapath.pass
    rwa [if_pos hov.stopped]

end Sys2Proof.Machine
end

