-- ==== Sys2Proof/Laws/PerInstr.lean ====
section
/-! SUPPORT. Per command: its word lies in the row of its mnemonic of spec/opcode_table.json. -/
namespace Sys2Proof.Laws.EncodesToRow

/-- The word of a well-formed command belongs to a row that bears its mnemonic. -/
def Statement (i : Instr) : Prop :=
  i.wf = true → ∃ r ∈ opcodeTable, r.mnemonic = i.mnemonic ∧ r.holds (encode i) = true

/-- The width field does not touch the bits a width-taking row fixes. -/
theorem cmdOf_fixed_bits {w : Nat} (hw : w < 128) : ∀ op < 16, cmdOf op w &&& 0xF80F#16 = BitVec.ofNat 16 op := by
  have h : ∀ w < 128, ∀ op < 16, cmdOf op w &&& 0xF80F#16 = BitVec.ofNat 16 op := by decide
  exact h w hw

theorem of_width {i : Instr} {w op : Nat} (hw : widthFits w = true) (hop : op < 16) (he : encode i = cmdOf op w)
    (hr : ⟨i.mnemonic, 0xF80F#16, BitVec.ofNat 16 op⟩ ∈ opcodeTable) :
    ∃ r ∈ opcodeTable, r.mnemonic = i.mnemonic ∧ r.holds (encode i) = true := by
  refine ⟨_, hr, rfl, ?_⟩
  rw [Row.holds, he, cmdOf_fixed_bits (of_decide_eq_true hw) op hop]
  exact beq_self_eq_true _

theorem getpos : Statement .getpos := fun _ => ⟨⟨"GETPOS", 0xFFFF#16, 0x0000#16⟩, by decide, rfl, by decide⟩
theorem rdu (w : Nat) : Statement (.rdu w) := fun h => of_width (op := 1) h (by decide) rfl (by simp only [Instr.mnemonic]; decide)
theorem rdbit : Statement .rdbit := fun _ => ⟨⟨"RDBIT", 0xFFFF#16, 0x0002#16⟩, by decide, rfl, by decide⟩
theorem rdsi (w : Nat) : Statement (.rdsi w) := fun h => of_width (op := 3) h (by decide) rfl (by simp only [Instr.mnemonic]; decide)
theorem rdsl (w : Nat) : Statement (.rdsl w) := fun h => of_width (op := 4) h (by decide) rfl (by simp only [Instr.mnemonic]; decide)
theorem rdul (w : Nat) : Statement (.rdul w) := fun h => of_width (op := 5) h (by decide) rfl (by simp only [Instr.mnemonic]; decide)
theorem rduat (w : Nat) : Statement (.rduat w) := fun h => of_width (op := 6) h (by decide) rfl (by simp only [Instr.mnemonic]; decide)
theorem rdsat (w : Nat) : Statement (.rdsat w) := fun h => of_width (op := 7) h (by decide) rfl (by simp only [Instr.mnemonic]; decide)
theorem rdbitat : Statement .rdbitat := fun _ => ⟨⟨"RDBITAT", 0xFFFF#16, 0x0008#16⟩, by decide, rfl, by decide⟩

end Sys2Proof.Laws.EncodesToRow
end

