-- ==== Sys2Proof/Laws/State.lean ====
section
/-! SUPPORT. What each update of the state leaves in each field. -/
namespace Sys2Proof.Machine

variable (s : State)

@[simp] theorem State.respond_seq (st : Status) (r : Word) (rs : List Nat) : (s.respond st r rs).seq = s.seq := rfl
@[simp] theorem State.respond_byteOrder (st : Status) (r : Word) (rs : List Nat) : (s.respond st r rs).byteOrder = s.byteOrder := rfl
@[simp] theorem State.respond_bc (st : Status) (r : Word) (rs : List Nat) : (s.respond st r rs).bc = s.bc := rfl
@[simp] theorem State.respond_bitpos (st : Status) (r : Word) (rs : List Nat) : (s.respond st r rs).bitpos = s.bitpos := rfl
@[simp] theorem State.respond_port (st : Status) (r : Word) (rs : List Nat) : (s.respond st r rs).port = s.port := rfl
@[simp] theorem State.respond_pos (st : Status) (r : Word) (rs : List Nat) : (s.respond st r rs).pos = s.pos := rfl
@[simp] theorem State.respond_output (st : Status) (r : Word) (rs : List Nat) : (s.respond st r rs).output = some (.response ⟨s.port, st.code, r⟩) := rfl
@[simp] theorem State.respond_reads (st : Status) (r : Word) (rs : List Nat) : (s.respond st r rs).reads = rs := rfl
@[simp] theorem State.respond_script (st : Status) (r : Word) (rs : List Nat) : (s.respond st r rs).script = s.script := rfl

@[simp] theorem State.setBitpos_seq (v : Nat) : (s.setBitpos v).seq = s.seq := rfl
@[simp] theorem State.setBitpos_byteOrder (v : Nat) : (s.setBitpos v).byteOrder = s.byteOrder := rfl
@[simp] theorem State.setBitpos_bc (v : Nat) : (s.setBitpos v).bc = s.bc := rfl
@[simp] theorem State.setBitpos_bitpos (v : Nat) : (s.setBitpos v).bitpos = s.bitpos.set s.port v := rfl
@[simp] theorem State.setBitpos_port (v : Nat) : (s.setBitpos v).port = s.port := rfl
@[simp] theorem State.setBitpos_pos (v : Nat) : (s.setBitpos v).pos = s.pos := rfl
@[simp] theorem State.setBitpos_output (v : Nat) : (s.setBitpos v).output = s.output := rfl
@[simp] theorem State.setBitpos_reads (v : Nat) : (s.setBitpos v).reads = s.reads := rfl
@[simp] theorem State.setBitpos_script (v : Nat) : (s.setBitpos v).script = s.script := rfl

@[simp] theorem State.syncByteCursor_seq (p : Nat) : (s.syncByteCursor p).seq = s.seq := rfl
@[simp] theorem State.syncByteCursor_byteOrder (p : Nat) : (s.syncByteCursor p).byteOrder = s.byteOrder := rfl
@[simp] theorem State.syncByteCursor_bc (p : Nat) : (s.syncByteCursor p).bc = p / 8 := rfl
@[simp] theorem State.syncByteCursor_bitpos (p : Nat) : (s.syncByteCursor p).bitpos = s.bitpos := rfl
@[simp] theorem State.syncByteCursor_port (p : Nat) : (s.syncByteCursor p).port = s.port := rfl
@[simp] theorem State.syncByteCursor_pos (p : Nat) : (s.syncByteCursor p).pos = s.pos := rfl
@[simp] theorem State.syncByteCursor_output (p : Nat) : (s.syncByteCursor p).output = s.output := rfl
@[simp] theorem State.syncByteCursor_reads (p : Nat) : (s.syncByteCursor p).reads = s.reads := rfl
@[simp] theorem State.syncByteCursor_script (p : Nat) : (s.syncByteCursor p).script = s.script := rfl

@[simp] theorem State.commit_seq (p : Nat) : (s.commit p).seq = s.seq := rfl
@[simp] theorem State.commit_byteOrder (p : Nat) : (s.commit p).byteOrder = s.byteOrder := rfl
@[simp] theorem State.commit_bc (p : Nat) : (s.commit p).bc = p / 8 := rfl
@[simp] theorem State.commit_bitpos (p : Nat) : (s.commit p).bitpos = s.bitpos.set s.port p := rfl
@[simp] theorem State.commit_port (p : Nat) : (s.commit p).port = s.port := rfl
@[simp] theorem State.commit_pos (p : Nat) : (s.commit p).pos = s.pos := rfl
@[simp] theorem State.commit_output (p : Nat) : (s.commit p).output = s.output := rfl
@[simp] theorem State.commit_reads (p : Nat) : (s.commit p).reads = s.reads := rfl
@[simp] theorem State.commit_script (p : Nat) : (s.commit p).script = s.script := rfl

@[simp] theorem State.yield_seq (r : ByteStoreResult) : (s.yield r).seq = s.seq := rfl
@[simp] theorem State.yield_byteOrder (r : ByteStoreResult) : (s.yield r).byteOrder = s.byteOrder := rfl
@[simp] theorem State.yield_bc (r : ByteStoreResult) : (s.yield r).bc = s.bc := rfl
@[simp] theorem State.yield_bitpos (r : ByteStoreResult) : (s.yield r).bitpos = s.bitpos := rfl
@[simp] theorem State.yield_port (r : ByteStoreResult) : (s.yield r).port = s.port := rfl
@[simp] theorem State.yield_pos (r : ByteStoreResult) : (s.yield r).pos = s.pos := rfl
@[simp] theorem State.yield_output (r : ByteStoreResult) : (s.yield r).output = some (.byteStore r) := rfl
@[simp] theorem State.yield_reads (r : ByteStoreResult) : (s.yield r).reads = [] := rfl
@[simp] theorem State.yield_script (r : ByteStoreResult) : (s.yield r).script = s.script := rfl

@[simp] theorem State.setBc_seq (v : Nat) : (s.setBc v).seq = s.seq := rfl
@[simp] theorem State.setBc_byteOrder (v : Nat) : (s.setBc v).byteOrder = s.byteOrder := rfl
@[simp] theorem State.setBc_bc (v : Nat) : (s.setBc v).bc = v := rfl
@[simp] theorem State.setBc_bitpos (v : Nat) : (s.setBc v).bitpos = s.bitpos := rfl
@[simp] theorem State.setBc_port (v : Nat) : (s.setBc v).port = s.port := rfl
@[simp] theorem State.setBc_pos (v : Nat) : (s.setBc v).pos = s.pos := rfl
@[simp] theorem State.setBc_output (v : Nat) : (s.setBc v).output = s.output := rfl
@[simp] theorem State.setBc_reads (v : Nat) : (s.setBc v).reads = s.reads := rfl
@[simp] theorem State.setBc_script (v : Nat) : (s.setBc v).script = s.script := rfl

@[simp] theorem State.quiet_seq : s.quiet.seq = s.seq := rfl
@[simp] theorem State.quiet_byteOrder : s.quiet.byteOrder = s.byteOrder := rfl
@[simp] theorem State.quiet_bc : s.quiet.bc = s.bc := rfl
@[simp] theorem State.quiet_bitpos : s.quiet.bitpos = s.bitpos := rfl
@[simp] theorem State.quiet_port : s.quiet.port = s.port := rfl
@[simp] theorem State.quiet_pos : s.quiet.pos = s.pos := rfl
@[simp] theorem State.quiet_output : s.quiet.output = none := rfl
@[simp] theorem State.quiet_reads : s.quiet.reads = [] := rfl
@[simp] theorem State.quiet_script : s.quiet.script = s.script := rfl

@[simp] theorem State.drive_seq (c : Command) : (s.drive c).seq = s.seq := rfl
@[simp] theorem State.drive_byteOrder (c : Command) : (s.drive c).byteOrder = s.byteOrder := rfl
@[simp] theorem State.drive_bc (c : Command) : (s.drive c).bc = s.bc := rfl
@[simp] theorem State.drive_bitpos (c : Command) : (s.drive c).bitpos = s.bitpos := rfl
@[simp] theorem State.drive_port (c : Command) : (s.drive c).port = c.port := rfl
@[simp] theorem State.drive_pos (c : Command) : (s.drive c).pos = c.pos := rfl
@[simp] theorem State.drive_output (c : Command) : (s.drive c).output = s.output := rfl
@[simp] theorem State.drive_reads (c : Command) : (s.drive c).reads = s.reads := rfl
@[simp] theorem State.drive_script (c : Command) : (s.drive c).script = s.script := rfl

@[simp] theorem State.issued_seq (c : Command) (rest : List HostStep) : (s.issued c rest).seq = s.seq := rfl
@[simp] theorem State.issued_byteOrder (c : Command) (rest : List HostStep) : (s.issued c rest).byteOrder = s.byteOrder := rfl
@[simp] theorem State.issued_bc (c : Command) (rest : List HostStep) : (s.issued c rest).bc = s.bc := rfl
@[simp] theorem State.issued_bitpos (c : Command) (rest : List HostStep) : (s.issued c rest).bitpos = s.bitpos := rfl
@[simp] theorem State.issued_port (c : Command) (rest : List HostStep) : (s.issued c rest).port = c.port := rfl
@[simp] theorem State.issued_pos (c : Command) (rest : List HostStep) : (s.issued c rest).pos = c.pos := rfl
@[simp] theorem State.issued_output (c : Command) (rest : List HostStep) : (s.issued c rest).output = s.output := rfl
@[simp] theorem State.issued_reads (c : Command) (rest : List HostStep) : (s.issued c rest).reads = s.reads := rfl
@[simp] theorem State.issued_script (c : Command) (rest : List HostStep) : (s.issued c rest).script = rest := rfl

@[simp] theorem State.answers_seq (st : BitVec 2) (r : Word) (rs : List Nat) : (s.answers st r rs).seq = s.seq := rfl
@[simp] theorem State.answers_byteOrder (st : BitVec 2) (r : Word) (rs : List Nat) : (s.answers st r rs).byteOrder = s.byteOrder := rfl
@[simp] theorem State.answers_bc (st : BitVec 2) (r : Word) (rs : List Nat) : (s.answers st r rs).bc = s.bc := rfl
@[simp] theorem State.answers_bitpos (st : BitVec 2) (r : Word) (rs : List Nat) : (s.answers st r rs).bitpos = s.bitpos := rfl
@[simp] theorem State.answers_port (st : BitVec 2) (r : Word) (rs : List Nat) : (s.answers st r rs).port = s.port := rfl
@[simp] theorem State.answers_pos (st : BitVec 2) (r : Word) (rs : List Nat) : (s.answers st r rs).pos = s.pos := rfl
@[simp] theorem State.answers_output (st : BitVec 2) (r : Word) (rs : List Nat) : (s.answers st r rs).output = some (.response ⟨s.port, st, r⟩) := rfl
@[simp] theorem State.answers_reads (st : BitVec 2) (r : Word) (rs : List Nat) : (s.answers st r rs).reads = rs := rfl
@[simp] theorem State.answers_script (st : BitVec 2) (r : Word) (rs : List Nat) : (s.answers st r rs).script = s.script := rfl

@[simp] theorem State.advanced_seq (p : Nat) : (s.advanced p).seq = s.seq := rfl
@[simp] theorem State.advanced_byteOrder (p : Nat) : (s.advanced p).byteOrder = s.byteOrder := rfl
@[simp] theorem State.advanced_bc (p : Nat) : (s.advanced p).bc = p / 8 := rfl
@[simp] theorem State.advanced_bitpos (p : Nat) : (s.advanced p).bitpos = s.bitpos.set s.port p := rfl
@[simp] theorem State.advanced_port (p : Nat) : (s.advanced p).port = s.port := rfl
@[simp] theorem State.advanced_pos (p : Nat) : (s.advanced p).pos = s.pos := rfl
@[simp] theorem State.advanced_output (p : Nat) : (s.advanced p).output = s.output := rfl
@[simp] theorem State.advanced_reads (p : Nat) : (s.advanced p).reads = s.reads := rfl
@[simp] theorem State.advanced_script (p : Nat) : (s.advanced p).script = s.script := rfl

end Sys2Proof.Machine
end

