-- ==== Sys2Proof/Laws/Reads.lean ====
section
/-! SUPPORT. What the shared operations of the commands can do: the loop, the port, the two read procedures. -/
namespace Sys2Proof.Machine

/-- The loop ends with the whole field, the last byte partly taken at least, or past the end of the sequence
(40_datapath R81, R86). -/
theorem extractLoop_cases {q : Sequence} {start n : Nat} (hn : n ≤ 64) :
    ∀ (fuel : Nat) (d : Datapath), d.Progress q start n → (0 < d.done → 1 ≤ d.bitOffsetInByte) → n ≤ d.done + fuel →
      ((extractLoop q n fuel d).Progress q start n ∧ (extractLoop q n fuel d).done = n ∧
          (0 < n → 1 ≤ (extractLoop q n fuel d).bitOffsetInByte)) ∨
        (extractLoop q n fuel d).Overrun q start n := by
  intro fuel
  induction fuel with
  | zero =>
    intro d hd ho hf
    have hdone : d.done = n := Nat.le_antisymm hd.bounded hf
    exact .inl ⟨hd, hdone, by rw [← hdone]; exact ho⟩
  | succ fuel ih =>
    intro d hd ho hf
    unfold extractLoop
    by_cases hle : n ≤ d.done
    · have hdone : d.done = n := Nat.le_antisymm hd.bounded hle
      rw [if_pos (by simp [hle])]; exact .inl ⟨hd, hdone, by rw [← hdone]; exact ho⟩
    · rw [if_neg (by simp [hle, hd.running])]
      rcases Datapath.pass_cases hd (Nat.lt_of_not_le hle) hn with ⟨hp, hlt, hoff⟩ | hov
      · exact ih _ hp (fun _ => hoff) (by omega)
      · right
        have hstop : extractLoop q n fuel (d.pass q n) = d.pass q n := by
          cases fuel with
          | zero => rfl
          | succ k => unfold extractLoop; rw [if_pos (by simp [hov.stopped])]
        rwa [hstop]

/-- A command on a port that has an instance runs on that instance's cursor. -/
theorem onPort_some {s : State} {p : Nat} (h : s.bitpos[s.port]? = some p)
    (run : Nat → Host.Outcome State Fault Refusal) : onPort s run = run p := by simp only [onPort, h]

/-- A command on a port that has none stops. -/
theorem onPort_none {s : State} (h : s.bitpos[s.port]? = none)
    (run : Nat → Host.Outcome State Fault Refusal) : onPort s run = .fault .noSuchPort := by simp only [onPort, h]

theorem onPort_next {s t : State} {run : Nat → Host.Outcome State Fault Refusal} (h : onPort s run = .next t) :
    ∃ p, s.bitpos[s.port]? = some p ∧ run p = .next t := by
  cases hp : s.bitpos[s.port]? with
  | none => rw [onPort_none hp] at h; cases h
  | some p => rw [onPort_some hp] at h; exact ⟨p, rfl, h⟩

/-- Everything a relative read can do (40_datapath R94). -/
theorem relativeRead_next {w a b : Nat} {conv : Word → Nat → Word} {s t : State}
    (h : relativeRead w a b conv s = .next t) : ∃ p, s.bitpos[s.port]? = some p ∧
      ((widthOutside w a b = true ∧ t = s.respond .widthError 0#64 []) ∨
       (widthOutside w a b = false ∧ w = 0 ∧ t = s.respond .ok 0#64 []) ∨
       (widthOutside w a b = false ∧ w ≠ 0 ∧ (extract s.seq p w).field = none ∧
          t = s.respond .outOfRange 0#64 (extract s.seq p w).reads) ∨
       (widthOutside w a b = false ∧ w ≠ 0 ∧ ∃ stop raw, (extract s.seq p w).field = some (stop, raw) ∧
          t = (s.commit stop).respond .ok (conv raw w) (extract s.seq p w).reads)) := by
  obtain ⟨p, hp, h⟩ := onPort_next h
  refine ⟨p, hp, ?_⟩
  split at h
  · rename_i hw; cases h; exact .inl ⟨hw, rfl⟩
  · rename_i hw
    have hw := Bool.eq_false_iff.mpr hw
    split at h
    · rename_i h0; cases h; exact .inr (.inl ⟨hw, h0, rfl⟩)
    · rename_i h0
      split at h <;> rename_i he <;> cases h <;> rw [he]
      · exact .inr (.inr (.inl ⟨hw, h0, rfl, rfl⟩))
      · exact .inr (.inr (.inr ⟨hw, h0, _, _, rfl, rfl⟩))

/-- Everything an absolute read can do (40_datapath R95). -/
theorem absoluteRead_next {w a b : Nat} {conv : Word → Nat → Word} {s t : State}
    (h : absoluteRead w a b conv s = .next t) : ∃ p, s.bitpos[s.port]? = some p ∧
      ((widthOutside w a b = true ∧ t = s.respond .widthError 0#64 []) ∨
       (widthOutside w a b = false ∧ (extract s.seq s.pos.toNat w).field = none ∧
          t = s.respond .outOfRange 0#64 (extract s.seq s.pos.toNat w).reads) ∨
       (widthOutside w a b = false ∧ ∃ stop raw, (extract s.seq s.pos.toNat w).field = some (stop, raw) ∧
          t = s.respond .ok (conv raw w) (extract s.seq s.pos.toNat w).reads)) := by
  obtain ⟨p, hp, h⟩ := onPort_next h
  refine ⟨p, hp, ?_⟩
  split at h
  · rename_i hw; cases h; exact .inl ⟨hw, rfl⟩
  · rename_i hw
    have hw := Bool.eq_false_iff.mpr hw
    split at h <;> rename_i he <;> cases h <;> rw [he]
    · exact .inr (.inl ⟨hw, rfl, rfl⟩)
    · exact .inr (.inr ⟨hw, _, _, rfl, rfl⟩)

end Sys2Proof.Machine
end

