-- ==== Sys2Proof/Laws/Step.lean ====
section
/-! SUPPORT. What a byte-store operation and a step can do. -/
namespace Sys2Proof.Machine

/-- A zero-length request puts a result out and changes nothing else, whichever outcome the open parameter names. -/
theorem zeroLength_eq (r : ByteStoreResult) (s : State) : ∃ r', zeroLength r s = s.yield r' := by
  unfold zeroLength; cases Config.bvZeroWidth <;> exact ⟨_, rfl⟩

/-- Every byte-store operation puts a result out, and moves `BC` at most (44_bytestore_interface R160). -/
theorem byteStore_eq (op : ByteStoreOp) (s : State) : ∃ v r, byteStore op s = (s.setBc v).yield r := by
  have keep : ∀ r, ∃ v r', s.yield r = (s.setBc v).yield r' := fun r => ⟨s.bc, r, rfl⟩
  have zero : ∀ r, ∃ v r', zeroLength r s = (s.setBc v).yield r' := fun r => by
    obtain ⟨r', hr⟩ := zeroLength_eq r s; rw [hr]; exact keep r'
  have multi : ∀ n nmax num, ∃ v r, multiByteRead n nmax num s = (s.setBc v).yield r := fun n nmax num => by
    unfold multiByteRead
    split
    · exact keep _
    · split
      · exact zero _
      · split
        · exact keep _
        · exact ⟨_, _, rfl⟩
  cases op <;> simp only [byteStore]
  case readByte => unfold readByte; split; exacts [keep _, ⟨_, _, rfl⟩]
  case readSlice n => unfold readSlice; split; exacts [zero _, by split; exacts [keep _, ⟨_, _, rfl⟩]]
  case readSliceAt position n => unfold readSliceAt; split; exacts [zero _, by split <;> exact keep _]
  all_goals first | exact multi _ _ _ | exact keep _

/-- Everything a step that goes on can be (20_memory R51). -/
theorem step_next {s t : State} (h : step s = .next t) :
    (s.script = [] ∧ t = s.quiet) ∨
    (∃ c rest i, s.script = .command c :: rest ∧ decode c.cmd = .ok i ∧ exec i (s.issued c rest) = .next t) ∨
    (∃ c rest e p, s.script = .command c :: rest ∧ decode c.cmd = .error e ∧ s.bitpos[c.port]? = some p ∧
      t = (s.issued c rest).respond .illegalCommand 0#64 []) ∨
    (∃ op rest, s.script = .byteStore op :: rest ∧ t = byteStore op { s with script := rest }) ∨
    (∃ v rest, s.script = .moveBc v :: rest ∧ v ≤ s.seq.len ∧ t = { s.quiet with script := rest, bc := v }) ∨
    (∃ k rest, s.script = .attach k :: rest ∧ k < s.bitpos.length ∧
      t = { s.quiet with script := rest, bitpos := s.bitpos.set k (8 * s.bc) }) := by
  unfold step at h
  split at h
  · rename_i hs; cases h; exact .inl ⟨hs, rfl⟩
  · rename_i hh rest hs
    cases hh with
    | command c =>
      simp only [runHostStep, runWord] at h
      split at h
      · rename_i i hd; exact .inr (.inl ⟨c, rest, i, hs, hd, h⟩)
      · rename_i e hd
        obtain ⟨p, hp, h⟩ := onPort_next h
        cases h
        exact .inr (.inr (.inl ⟨c, rest, e, p, hs, hd, hp, rfl⟩))
    | overlap a b => cases h
    | byteStore op => cases h; exact .inr (.inr (.inr (.inl ⟨op, rest, hs, rfl⟩)))
    | moveBc v =>
      simp only [runHostStep, moveBc] at h
      split at h
      · rename_i hv; cases h; exact .inr (.inr (.inr (.inr (.inl ⟨v, rest, hs, hv, rfl⟩))))
      · cases h
    | attach k =>
      simp only [runHostStep, attach] at h
      split at h
      · rename_i hk; cases h; exact .inr (.inr (.inr (.inr (.inr ⟨k, rest, hs, hk, rfl⟩))))
      · cases h

end Sys2Proof.Machine
end

