-- ==== Sys2Proof/Tests/Slice0.lean ====
section
/-! SUPPORT. Tests with results taken from the spec (95_test_vectors and the rules named), the ill-formed terms the
checks refuse, and for every obligation with hypotheses a state and operands that meet them. -/
namespace Sys2Proof.Tests
open Sys2Proof.Machine

/-! ## Small states -/

/-- 95_test_vectors, "Conventions": the sequence `A`. -/
def bytesA : List Byte := [0xA5#8, 0x3C#8, 0x0F#8, 0xF0#8, 0x12#8, 0x34#8, 0x56#8, 0x78#8, 0x9A#8]

/-- One instance over `bs` at `BITPOS = p`, with `BC = b` and the host's steps `hs`. -/
def one (bs : List Byte) (p b : Nat) (hs : List HostStep := []) : State :=
  { State.boot ⟨bs, .msbFirst, 0, 1, 64⟩ with bitpos := [p], bc := b, script := hs }

/-- Two instances over `bs` (95_test_vectors, section 2.13). -/
def two (bs : List Byte) (p q b : Nat) (hs : List HostStep) : State :=
  { State.boot ⟨bs, .msbFirst, 0, 2, 64⟩ with bitpos := [p, q], bc := b, script := hs }

def nextOr (s : State) : Host.Outcome State Fault Refusal → State
  | .next t => t
  | .fault _ => s
  | .refused _ => s

def goesOn : Host.Outcome State Fault Refusal → Bool
  | .next _ => true
  | .fault _ => false
  | .refused _ => false

theorem goesOn_next {o : Host.Outcome State Fault Refusal} (s : State) (h : goesOn o = true) : o = .next (nextOr s o) := by
  cases o with
  | next t => rfl
  | fault r => cases h
  | refused r => cases h

/-- A response, with `BITPOS` of every instance and `BC` after it. -/
structure Answer where
  status : BitVec 2
  result : Word
  bitpos : List Nat
  bc     : Nat
  deriving DecidableEq, Repr

/-- The response, `BITPOS` and `BC` after the word `c` with `POS = x` from `BITPOS = p`, `BC = b` over `bs`. -/
def answerOn (bs : List Byte) (c : CmdWord) (x : Word) (p b : Nat) : Option Answer :=
  match step (one bs p b [.command ⟨0, c, x⟩]) with
  | .next t =>
    match t.output with
    | some (.response r) => some ⟨r.status, r.result, t.bitpos, t.bc⟩
    | some (.byteStore _) => none
    | none => none
  | .fault _ => none
  | .refused _ => none

/-- The same over `A`. -/
def answerA (c : CmdWord) (x : Word) (p b : Nat) : Option Answer := answerOn bytesA c x p b

/-- The result of a byte-store operation over `A`, and `BC` after it. -/
def storeA (o : ByteOrder) (b : Nat) (op : ByteStoreOp) : Option Output × Nat :=
  let t := byteStore op { one bytesA 0 b with byteOrder := o }
  (t.output, t.bc)

/-! ## Well-formedness: each check refuses an ill-formed term -/

theorem test_wf_refuses_wide_fields :
    (Instr.rdu 128).wf = false ∧ (Instr.rdsi 128).wf = false ∧ (Instr.rdsl 128).wf = false ∧
    (Instr.rdul 128).wf = false ∧ (Instr.rduat 128).wf = false ∧ (Instr.rdsat 128).wf = false := by decide

theorem test_memory_wf_refuses :
    Memory.wf [(3, 1#8), (3, 2#8)] = false ∧ Memory.wf [(3, 0#8)] = false ∧ Memory.wf [(5, 1#8), (3, 2#8)] = false := by decide

theorem test_params_legal_refuses :
    Params.legal ⟨[1#8], .msbFirst, 2, 1, 64⟩ = false ∧ Params.legal ⟨[1#8], .msbFirst, 0, 0, 64⟩ = false ∧
    Params.legal ⟨[1#8], .msbFirst, 0, 1, 65⟩ = false ∧ Params.legal ⟨[1#8], .msbFirst, 0, 1, 3⟩ = false := by decide

/-! ## Decoding: words bit by bit from 30_encoding R61, `RRRRR wwwwwww oooo` -/

theorem test_decode_getpos : decode 0b00000_0000000_0000#16 = .ok .getpos := by decide
theorem test_decode_rdu : decode 0b00000_0010000_0001#16 = .ok (.rdu 16) := by decide
theorem test_decode_rdbit : decode 0b00000_0000000_0010#16 = .ok .rdbit := by decide
theorem test_decode_rdsi : decode 0b00000_0000101_0011#16 = .ok (.rdsi 5) := by decide
theorem test_decode_rdsl : decode 0b00000_1000000_0100#16 = .ok (.rdsl 64) := by decide
theorem test_decode_rdul : decode 0b00000_1111111_0101#16 = .ok (.rdul 127) := by decide
theorem test_decode_rduat : decode 0b00000_0001000_0110#16 = .ok (.rduat 8) := by decide
theorem test_decode_rdsat : decode 0b00000_0001100_0111#16 = .ok (.rdsat 12) := by decide
theorem test_decode_rdbitat : decode 0b00000_0000000_1000#16 = .ok .rdbitat := by decide
theorem test_decode_rejects_by_name :
    decode 0b00001_0000000_0000#16 = .error .reservedBits ∧ decode 0b10000_0000000_0001#16 = .error .reservedBits ∧
    decode 0b00000_0000001_1000#16 = .error .widthOnFixed ∧ decode 0b00000_0000000_1001#16 = .error .reservedOpcode ∧
    decode 0b00000_0000000_1111#16 = .error .reservedOpcode := by decide
theorem test_decodeTableWord : decodeTableWord 16 0x0007 = some (.rdsat 0) ∧ decodeTableWord 16 0x0009 = none := by decide

/-- Lines of 30_encoding R70 and of P2 and P5 in 95_test_vectors: `RDUAT 12, 4`, `RDSL 64 ; 0x0404`, a hexadecimal
position, a width that is over the maximum but assembles, and one the assembler rejects. -/
theorem test_assembleLine :
    assembleLine ['R', 'D', 'U', 'A', 'T', ' ', '1', '2', ',', ' ', '4'] = some (0x0046#16, 12#64) ∧
    assembleLine ['R', 'D', 'S', 'L', ' ', ' ', '6', '4', ' ', ';', ' ', '0'] = some (0x0404#16, 0#64) ∧
    assembleLine ['R', 'D', 'B', 'I', 'T', 'A', 'T', ' ', '0', 'x', '1', '7'] = some (0x0008#16, 23#64) ∧
    assembleLine ['R', 'D', 'U', ' ', '1', '2', '7'] = some (0x07F1#16, 0#64) ∧
    assembleLine ['R', 'D', 'U', ' ', '1', '2', '8'] = none := by decide

/-- The line of V-RDUAT-8, `RDUAT 0xFFFF_FFFF_FFFF_FFFF, 1`; and a decimal `<w>` takes no `_` (log 24). -/
theorem test_assembleLine_separator :
    assembleLine ['R', 'D', 'U', 'A', 'T', ' ', '0', 'x', 'F', 'F', 'F', 'F', '_', 'F', 'F', 'F', 'F', '_',
      'F', 'F', 'F', 'F', '_', 'F', 'F', 'F', 'F', ',', ' ', '1'] = some (0x0016#16, 0xFFFFFFFFFFFFFFFF#64) ∧
    assembleLine ['R', 'D', 'U', ' ', '1', '_', '2'] = none := by decide

/-! ## The commands: 95_test_vectors, sections 2.3 to 2.12, at the boundaries of each clause -/

/-- V-RDU-4, -7 and V-SYNC-2, -3. -/
theorem test_rdu_values :
    answerA 0x0101#16 0 4 0 = some ⟨0b00#2, 0x53C0#64, [20], 2⟩ ∧ answerA 0x0081#16 0 64 8 = some ⟨0b00#2, 0x9A#64, [72], 9⟩ ∧
    answerA 0x0031#16 0 6 0 = some ⟨0b00#2, 2#64, [9], 1⟩ ∧ answerA 0x0081#16 0 16 0 = some ⟨0b00#2, 0x0F#64, [24], 3⟩ := by decide

/-- V-RDU-2, -5, -8, -9, -10. -/
theorem test_rdu_boundaries :
    answerA 0x0001#16 0 16 5 = some ⟨0b00#2, 0#64, [16], 5⟩ ∧ answerA 0x0111#16 0 0 0 = some ⟨0b01#2, 0#64, [0], 0⟩ ∧
    answerA 0x0081#16 0 65 8 = some ⟨0b10#2, 0#64, [65], 8⟩ ∧ answerA 0x0001#16 0 72 9 = some ⟨0b00#2, 0#64, [72], 9⟩ ∧
    answerA 0x0111#16 0 72 9 = some ⟨0b01#2, 0#64, [72], 9⟩ := by decide

/-- V-RDBIT-1 to -5. -/
theorem test_rdbit :
    answerA 0x0002#16 0 0 0 = some ⟨0b00#2, 1#64, [1], 0⟩ ∧ answerA 0x0002#16 0 71 8 = some ⟨0b00#2, 0#64, [72], 9⟩ ∧
    answerA 0x0002#16 0 72 9 = some ⟨0b10#2, 0#64, [72], 9⟩ ∧ answerA 0x0012#16 0 0 0 = some ⟨0b11#2, 0#64, [0], 0⟩ := by decide

/-- V-RDSI-2, -4, -5, -6, and W5's second read. -/
theorem test_rdsi_values :
    answerA 0x0013#16 0 0 0 = some ⟨0b00#2, 0xFFFFFFFFFFFFFFFF#64, [1], 0⟩ ∧
    answerA 0x00C3#16 0 12 1 = some ⟨0b00#2, 0xFFFFFFFFFFFFFC0F#64, [24], 3⟩ ∧
    answerA 0x0203#16 0 0 0 = some ⟨0b00#2, 0xFFFFFFFFA53C0FF0#64, [32], 4⟩ ∧
    answerA 0x0203#16 0 8 1 = some ⟨0b00#2, 0x3C0FF012#64, [40], 5⟩ ∧
    answerOn [0x19#8, 0x80#8] 0x0053#16 0 5 0 = some ⟨0b00#2, 6#64, [10], 1⟩ := by decide

/-- V-RDSI-1, -7, -8. -/
theorem test_rdsi_boundaries :
    answerA 0x0003#16 0 0 0 = some ⟨0b00#2, 0#64, [0], 0⟩ ∧ answerA 0x0213#16 0 0 0 = some ⟨0b01#2, 0#64, [0], 0⟩ ∧
    answerA 0x0203#16 0 41 5 = some ⟨0b10#2, 0#64, [41], 5⟩ := by decide

/-- V-RDSL-1, -2, -3, -6. -/
theorem test_rdsl_values :
    answerA 0x0404#16 0 0 0 = some ⟨0b00#2, 0xA53C0FF012345678#64, [64], 8⟩ ∧
    answerA 0x0404#16 0 1 0 = some ⟨0b00#2, 0x4A781FE02468ACF1#64, [65], 8⟩ ∧
    answerA 0x0404#16 0 8 1 = some ⟨0b00#2, 0x3C0FF0123456789A#64, [72], 9⟩ ∧
    answerA 0x0214#16 0 0 0 = some ⟨0b00#2, 0xFFFFFFFF4A781FE0#64, [33], 4⟩ := by decide

/-- V-RDSL-4, -5, -7. -/
theorem test_rdsl_boundaries :
    answerA 0x0404#16 0 9 1 = some ⟨0b10#2, 0#64, [9], 1⟩ ∧ answerA 0x0414#16 0 0 0 = some ⟨0b01#2, 0#64, [0], 0⟩ ∧
    answerA 0x0004#16 0 0 0 = some ⟨0b00#2, 0#64, [0], 0⟩ := by decide

/-- V-RDUL-2, -5. -/
theorem test_rdul_values :
    answerA 0x0405#16 0 7 0 = some ⟨0b00#2, 0x9E07F8091A2B3C4D#64, [71], 8⟩ ∧
    answerA 0x0215#16 0 0 0 = some ⟨0b00#2, 0x14A781FE0#64, [33], 4⟩ := by decide

/-- V-RDUL-3, -4, and V-DEC-10. -/
theorem test_rdul_boundaries :
    answerA 0x0415#16 0 0 0 = some ⟨0b01#2, 0#64, [0], 0⟩ ∧ answerA 0x0005#16 0 72 9 = some ⟨0b00#2, 0#64, [72], 9⟩ ∧
    answerA 0x07F5#16 0 16 2 = some ⟨0b01#2, 0#64, [16], 2⟩ := by decide

/-- V-RDUAT-1, -2, -5, from a diverged `BC`. -/
theorem test_rduat_values :
    answerA 0x0086#16 4 16 5 = some ⟨0b00#2, 83#64, [16], 5⟩ ∧
    answerA 0x0206#16 0 16 5 = some ⟨0b00#2, 0xA53C0FF0#64, [16], 5⟩ ∧
    answerA 0x0206#16 40 16 5 = some ⟨0b00#2, 0x3456789A#64, [16], 5⟩ := by decide

/-- V-RDUAT-3, -4, -6, -8, -9. -/
theorem test_rduat_boundaries :
    answerA 0x0006#16 0 16 5 = some ⟨0b01#2, 0#64, [16], 5⟩ ∧ answerA 0x0216#16 0 16 5 = some ⟨0b01#2, 0#64, [16], 5⟩ ∧
    answerA 0x0206#16 41 16 5 = some ⟨0b10#2, 0#64, [16], 5⟩ ∧
    answerA 0x0016#16 0xFFFFFFFFFFFFFFFF#64 16 5 = some ⟨0b10#2, 0#64, [16], 5⟩ ∧
    answerA 0x0006#16 100 16 5 = some ⟨0b01#2, 0#64, [16], 5⟩ := by decide

/-- V-RDSAT-1, -2, -3. -/
theorem test_rdsat_values :
    answerA 0x0207#16 0 16 5 = some ⟨0b00#2, 0xFFFFFFFFA53C0FF0#64, [16], 5⟩ ∧
    answerA 0x00C7#16 12 16 5 = some ⟨0b00#2, 0xFFFFFFFFFFFFFC0F#64, [16], 5⟩ ∧
    answerA 0x0017#16 0 16 5 = some ⟨0b00#2, 0xFFFFFFFFFFFFFFFF#64, [16], 5⟩ := by decide

/-- V-RDSAT-4, -6, and the range condition of 42_absolute_reads R122. -/
theorem test_rdsat_boundaries :
    answerA 0x0007#16 0 16 5 = some ⟨0b01#2, 0#64, [16], 5⟩ ∧ answerA 0x0207#16 40 16 5 = some ⟨0b00#2, 0x3456789A#64, [16], 5⟩ ∧
    answerA 0x0207#16 41 16 5 = some ⟨0b10#2, 0#64, [16], 5⟩ ∧ answerA 0x0217#16 0 16 5 = some ⟨0b01#2, 0#64, [16], 5⟩ := by decide

/-- V-RDBITAT-1, -3, -4, -5. -/
theorem test_rdbitat :
    answerA 0x0008#16 0 16 5 = some ⟨0b00#2, 1#64, [16], 5⟩ ∧ answerA 0x0008#16 71 16 5 = some ⟨0b00#2, 0#64, [16], 5⟩ ∧
    answerA 0x0008#16 72 16 5 = some ⟨0b10#2, 0#64, [16], 5⟩ ∧ answerA 0x0018#16 0 16 5 = some ⟨0b11#2, 0#64, [16], 5⟩ := by decide

/-- V-DEC-1, -2, -3. -/
theorem test_getpos :
    answerA 0x0000#16 0 37 2 = some ⟨0b00#2, 37#64, [37], 2⟩ ∧ answerA 0x0000#16 12345 0 0 = some ⟨0b00#2, 0#64, [0], 0⟩ ∧
    answerA 0x0010#16 0 16 2 = some ⟨0b11#2, 0#64, [16], 2⟩ := by decide

/-- 95_test_vectors, section 2.1: `Extract(7, 64)` and `Extract(9, 64)`, with the bytes read. -/
theorem test_extract :
    extract ⟨9, Memory.ofBytes bytesA⟩ 7 64 = ⟨[0, 1, 2, 3, 4, 5, 6, 7, 8], some (71, 0x9E07F8091A2B3C4D#64)⟩ ∧
    extract ⟨9, Memory.ofBytes bytesA⟩ 9 64 = ⟨[1, 2, 3, 4, 5, 6, 7, 8], none⟩ ∧
    extract ⟨9, Memory.ofBytes bytesA⟩ 72 1 = ⟨[], none⟩ := by decide

/-- 95_test_vectors, section 2.2: widths 5, 63 and 64. -/
theorem test_signExt :
    signExt 0x10#64 5 = -16 ∧ signExt 0x4000000000000000#64 63 = -4611686018427387904 ∧
    signExt 0x8000000000000000#64 64 = -9223372036854775808 ∧ toSigned 0x10#64 5 = 0xFFFFFFFFFFFFFFF0#64 ∧
    signFormA 0x8000000000000000#64 64 = 0x8000000000000000#64 ∧ signFormB 0x80#64 8 = 0xFFFFFFFFFFFFFF80#64 ∧
    signFormC 0x100000000#64 33 = 0xFFFFFFFF00000000#64 := by decide

/-- 95_test_vectors, section 2.13, step 3: the instance that read last sets `BC`. -/
theorem test_two_instances :
    let t := nextOr State.reset (step (two [0xA5#8, 0x3C#8, 0x0F#8] 4 16 2 [.command ⟨0, 0x0041#16, 0⟩]))
    t.output = some (.response ⟨0, 0b00#2, 5#64⟩) ∧ t.bitpos = [8, 16] ∧ t.bc = 1 := by decide

/-- 95_test_vectors, section 2.14, and W7. -/
theorem test_byte_store :
    storeA .msbFirst 0 (.readUnsigned 2) = (some (.byteStore (.number 0xA53C)), 2) ∧
    storeA .lsbFirst 0 (.readSignedInt 4) = (some (.byteStore (.number (-267436891))), 4) ∧
    storeA .lsbFirst 1 (.readUnsignedWide 8) = (some (.byteStore (.number 11130741260702191420)), 9) ∧
    storeA .msbFirst 8 .readByte = (some (.byteStore (.byte 0x9A#8)), 9) ∧
    storeA .msbFirst 3 (.readSliceAt 7 2) = (some (.byteStore (.slice [0x78#8, 0x9A#8])), 3) := by decide

/-- 95_test_vectors, section 2.14: the failures. -/
theorem test_byte_store_failures :
    storeA .msbFirst 9 .readByte = (some (.byteStore .outOfRangeError), 9) ∧
    storeA .lsbFirst 0 (.readUnsigned 3) = (some (.byteStore .widthError), 0) ∧
    storeA .msbFirst 8 (.readSlice 2) = (some (.byteStore .outOfRangeError), 8) := by decide

/-! ## Witnesses: for every obligation with hypotheses, a state and operands that meet them all -/

/-- `A` with a word issued on port 0. -/
def issue (c : CmdWord) (x : Word) (p b : Nat) (rest : List HostStep := []) : State :=
  one bytesA p b (.command ⟨0, c, x⟩ :: rest)

/-- `A`, idle, at `BITPOS = p`, with `POS = x`. -/
def idle (p : Nat) (x : Word) : State := { one bytesA p 0 with pos := x }

theorem witness_DecodeOfEncodeIsTheCommand : (Instr.rdu 127).wf = true ∧ (Instr.rduat 0).wf = true := by decide
theorem witness_EncodeOfDecodeIsTheWord : decode 0x07F1#16 = .ok (.rdu 127) := by decide
theorem witness_AssemblerWritesTheCommand :
    assemble (.rduat 5) (some 5) = some (0x0056#16, 5#64) ∧ assemble (.rdu 127) none = some (0x07F1#16, 0#64) ∧
    assemble (.rdu 128) none = none ∧ assemble (.rdu 1) (some 0) = none ∧ assemble .rdbitat (some (2 ^ 64)) = none := by decide
theorem witness_StepRunsTheIssuedCommand :
    (issue 0x0011#16 0 0 0).script = .command ⟨0, 0x0011#16, 0⟩ :: [] ∧ decode 0x0011#16 = .ok (.rdu 1) := by decide
theorem witness_FetchWordIsIssuedNext : decodeTableWord 16 0x0206 = some (.rduat 32) := by decide
theorem witness_IllegalWordsAnswerIllegalCommand :
    illegalWord 0x8001#16 = true ∧ illegalWord 0x0009#16 = true ∧ illegalWord 0x0018#16 = true ∧ illegalWord 0x07F8#16 = true ∧
    illegalWord 0x07F1#16 = false ∧ (issue 0x8001#16 0 16 2).script = .command ⟨0, 0x8001#16, 0⟩ :: [] ∧
    (issue 0x8001#16 0 16 2).bitpos[0]? = some 16 := by decide
theorem witness_EveryWordAnswersItsStatus :
    (issue 0x0111#16 0 72 9).script = .command ⟨0, 0x0111#16, 0⟩ :: [] ∧ (issue 0x0111#16 0 72 9).bitpos[0]? = some 72 ∧
    statusOf 0x0111#16 ((issue 0x0111#16 0 72 9).issued ⟨0, 0x0111#16, 0⟩ []) 72 = 0b01#2 ∧
    statusOf 0x0081#16 ((issue 0x0081#16 0 65 8).issued ⟨0, 0x0081#16, 0⟩ []) 65 = 0b10#2 ∧
    statusOf 0x0081#16 ((issue 0x0081#16 0 64 8).issued ⟨0, 0x0081#16, 0⟩ []) 64 = 0b00#2 ∧
    statusOf 0x0012#16 ((issue 0x0012#16 0 64 8).issued ⟨0, 0x0012#16, 0⟩ []) 64 = 0b11#2 := by decide

theorem witness_ErrorsChangeNothing :
    ∃ s t c rest st r c' rest', s.script = .command c :: rest ∧ step s = .next t ∧
      t.output = some (.response ⟨c.port, st, r⟩) ∧ st ≠ 0b00#2 ∧ rest = .command c' :: rest' :=
  ⟨issue 0x0111#16 0 16 5 [.command ⟨0, 0x0011#16, 0⟩], _, _, _, 0b01#2, 0#64, _, _, rfl,
    goesOn_next State.reset (by decide), by decide, by decide, rfl⟩

theorem witness_ExtractReadsTheField : (1 ≤ 64 ∧ 64 ≤ 64) ∧ 8 + 64 ≤ 8 * (one bytesA 0 0).seq.len := by decide
theorem witness_ExtractReadsEachByteOnce :
    (1 ≤ 64 ∧ 64 ≤ 64) ∧ (extract (one bytesA 0 0).seq 8 64).field ≠ none ∧ (extract (one bytesA 0 0).seq 9 64).field = none ∧
    (extract (one bytesA 0 0).seq 1 64).reads.length = 9 := by decide
theorem witness_PassTakesTheNextStreamBits : 3 < 8 ∧ 1 ≤ 5 ∧ 3 + 5 ≤ 8 ∧ 4 < 5 := by decide
theorem witness_SignExtensionIsExact :
    (1 ≤ 64 ∧ 64 ≤ 64) ∧ (0x8000000000000000#64).toNat < 2 ^ 64 ∧ (1 ≤ 1 ∧ 1 ≤ 32) ∧ (1#64).toNat < 2 ^ 1 := by decide
theorem witness_SixtyFourBitSignFormsAgree :
    (1 ≤ 64 ∧ 64 ≤ 64) ∧ (0x8000000000000001#64).toNat < 2 ^ 64 ∧ (0x8000000000000001#64).getLsbD 63 = true := by decide

/-- The two sequences differ in the first byte only, which the field of 8 bits at 8 does not cover. -/
theorem witness_FieldDependsOnlyOnItsBytes :
    ∃ q q' : Sequence, q ≠ q' ∧ q.len = q'.len ∧
      ∀ i, 8 / 8 ≤ i → i ≤ (8 + 8 - 1) / 8 → q.bytes.read i = q'.bytes.read i :=
  ⟨(one [0x01#8, 0x3C#8] 0 0).seq, (one [0x02#8, 0x3C#8] 0 0).seq, by decide, rfl, fun i h1 h2 => by
    have : i = 1 := by omega
    subst this; rfl⟩

theorem witness_WideFieldIsItsParts : 1 ≤ 5 ∧ 1 ≤ 59 ∧ 5 + 59 ≤ 64 ∧ 8 + 5 + 59 ≤ 8 * (one bytesA 0 0).seq.len := by decide
theorem witness_GetposAnswersTheCursor :
    (idle 37 0).bitpos[(idle 37 0).port]? = some 37 ∧ (idle 37 0).Inv ∧ (1 ≤ 127 ∧ 127 < 128) := by decide

theorem witness_RduReadsAnUnsignedField :
    (idle 4 0).bitpos[(idle 4 0).port]? = some 4 ∧ ∃ t r, exec (.rdu 16) (idle 4 0) = .next t ∧ t.output = some (.response r) :=
  ⟨by decide, _, ⟨0, 0b00#2, 0x53C0#64⟩, goesOn_next State.reset (by decide), by decide⟩

theorem witness_RdbitReadsOneBit :
    (idle 71 0).bitpos[(idle 71 0).port]? = some 71 ∧ (idle 72 0).bitpos[(idle 72 0).port]? = some 72 := by decide

theorem witness_RdsiReadsASignedField :
    (idle 0 0).bitpos[(idle 0 0).port]? = some 0 ∧
    ∃ t r, 1 ≤ 32 ∧ exec (.rdsi 32) (idle 0 0) = .next t ∧ t.output = some (.response r) ∧ r.status = 0b00#2 :=
  ⟨by decide, _, ⟨0, 0b00#2, 0xFFFFFFFFA53C0FF0#64⟩, by decide, goesOn_next State.reset (by decide), by decide, rfl⟩

theorem witness_RdslReadsASignedLongField : (idle 8 0).bitpos[(idle 8 0).port]? = some 8 := by decide

/-- Bit 0 of `A` is 1 and bit 1 is 0, so both sides of the last clause are met. -/
theorem witness_RdulReadsAnUnsignedLongField :
    (idle 1 0).bitpos[(idle 1 0).port]? = some 1 ∧ (idle 1 0).seq.streamBit 1 = false ∧ (idle 0 0).seq.streamBit 0 = true := by decide

theorem witness_RduatReadsAnUnsignedFieldAtPos : (idle 0 40).port < (idle 0 40).bitpos.length := by decide
theorem witness_RdsatReadsASignedFieldAtPos :
    (idle 12 12).port < (idle 12 12).bitpos.length ∧ (idle 12 12).bitpos[(idle 12 12).port]? = some (idle 12 12).pos.toNat ∧
    ∃ t u, exec (.rdsat 12) (idle 12 12) = .next t ∧ exec (.rdsi 12) (idle 12 12) = .next u :=
  ⟨by decide, by decide, _, _, goesOn_next State.reset (by decide), goesOn_next State.reset (by decide)⟩
theorem witness_RdbitatReadsOneBitAtPos : (idle 0 72).port < (idle 0 72).bitpos.length := by decide

theorem witness_AbsoluteReadsLeaveTheCursors :
    absolute (.rduat 8) = true ∧ ∃ t, exec (.rduat 8) (idle 16 4) = .next t :=
  ⟨rfl, _, goesOn_next State.reset (by decide)⟩

theorem witness_ZeroWidthReadsDoNothing :
    Instr.rdul 0 ∈ [Instr.rdu 0, .rdsi 0, .rdsl 0, .rdul 0] ∧ (idle 72 0).port < (idle 72 0).bitpos.length := by decide

theorem witness_RelativeReadsCommitBothCursors :
    relative (.rdu 3) = true ∧ 1 ≤ fieldWidth (.rdu 3) ∧ (idle 6 0).bitpos[(idle 6 0).port]? = some 6 ∧
    ∃ t port r, exec (.rdu 3) (idle 6 0) = .next t ∧ t.output = some (.response ⟨port, 0b00#2, r⟩) :=
  ⟨rfl, by decide, by decide, _, 0, 2#64, goesOn_next State.reset (by decide), by decide⟩

theorem witness_AbsoluteAndRelativeReadsAgree :
    (idle 12 12).bitpos[(idle 12 12).port]? = some (idle 12 12).pos.toNat ∧
    (extract (idle 8 8).seq 8 64).field = some (72, 0x3C0FF0123456789A#64) := by decide

theorem witness_ConsecutiveReadsAddTheirWidths :
    (∀ i ∈ [Instr.rdsi 5, .rdul 0, .rdbit], relative i = true) ∧ (idle 0 0).bitpos[(idle 0 0).port]? = some 0 ∧
    (runOk [Instr.rdsi 5, .rdul 0, .rdbit] (idle 0 0)).isSome = true := by decide

theorem witness_CommandsReadNeitherByteCursorNorOrder : ∃ t, exec (.rdsl 64) (idle 8 0) = .next t :=
  ⟨_, goesOn_next State.reset (by decide)⟩

theorem witness_OnlyAbsoluteReadsUsePos : absolute .getpos = false ∧ ∃ t, exec .getpos (idle 8 0) = .next t :=
  ⟨rfl, _, goesOn_next State.reset (by decide)⟩

theorem witness_CommandFrame :
    ∃ s t k, exec (.rdu 8) s = .next t ∧ k ≠ s.port ∧ k < s.bitpos.length :=
  ⟨two bytesA 0 16 0 [], _, 1, goesOn_next State.reset (by decide), by decide, by decide⟩

theorem witness_CommandFrame_not_relative : relative .rdbitat = false ∧ ∃ t, exec .rdbitat (idle 8 71) = .next t :=
  ⟨rfl, _, goesOn_next State.reset (by decide)⟩

theorem witness_InvariantHoldsAtBoot : Params.legal ⟨bytesA, .lsbFirst, 9, 2, 7⟩ = true := by decide

theorem witness_EveryStepKeepsTheInvariant :
    (issue 0x0081#16 0 64 0).Inv ∧ ∃ t, step (issue 0x0081#16 0 64 0) = .next t :=
  ⟨by decide, _, goesOn_next State.reset (by decide)⟩

theorem witness_SequenceIsNeverWritten : ∃ t, step (one bytesA 0 9 [.attach 0]) = .next t :=
  ⟨_, goesOn_next State.reset (by decide)⟩

/-- The step attaches another instance, so the first clause applies to instance 0. -/
theorem witness_BitCursorNeverGoesBack :
    ∃ s t a b, step s = .next t ∧ s.bitpos[0]? = some a ∧ t.bitpos[0]? = some b ∧
      (∀ rest, s.script ≠ .attach 0 :: rest) ∧ s.Inv :=
  ⟨two bytesA 4 16 2 [.attach 1], _, 4, 4, goesOn_next State.reset (by decide), rfl, by decide,
    (by intro rest h; cases h), by decide⟩

theorem witness_OnlyReadsAndAttachWriteBitpos :
    ∃ s t, step s = .next t ∧ t.bitpos ≠ s.bitpos :=
  ⟨issue 0x0011#16 0 0 0, _, goesOn_next State.reset (by decide), by decide⟩

theorem witness_WhatWritesTheByteCursor : ∃ s t, step s = .next t ∧ t.bc ≠ s.bc :=
  ⟨one bytesA 0 0 [.byteStore .readByte], _, goesOn_next State.reset (by decide), by decide⟩

theorem witness_OverlappingIssueHasNoStep :
    (one bytesA 0 0 [.overlap ⟨0, 0x0011#16, 0⟩ ⟨0, 0x0011#16, 0⟩]).script =
      .overlap ⟨0, 0x0011#16, 0⟩ ⟨0, 0x0011#16, 0⟩ :: [] := rfl

theorem witness_StopsOutsideTheSpecAreNamed :
    ({ idle 0 0 with port := 1 }).bitpos.length ≤ 1 ∧
    (one bytesA 0 0 [.command ⟨1, 0x0011#16, 0⟩]).script = .command ⟨1, 0x0011#16, 0⟩ :: [] ∧
    (one bytesA 0 0 [.attach 1]).script = .attach 1 :: [] ∧
    (one bytesA 0 0 [.moveBc 10]).script = .moveBc 10 :: [] ∧ (one bytesA 0 0 [.moveBc 10]).seq.len < 10 := by decide

theorem witness_HostMoveSetsTheByteCursor :
    (one bytesA 0 0 [.moveBc 9]).script = .moveBc 9 :: [] ∧ 9 ≤ (one bytesA 0 0 [.moveBc 9]).seq.len := by decide

theorem witness_AttachStartsAtTheByteCursor :
    (one bytesA 0 9 [.attach 0]).script = .attach 0 :: [] ∧ 0 < (one bytesA 0 9 [.attach 0]).bitpos.length ∧
    (one bytesA 0 9 [.attach 0]).bc ≤ (one bytesA 0 9 [.attach 0]).seq.len := by decide

theorem witness_NothingIssuedHoldsTheState : State.reset.script = [] := rfl

theorem witness_ReadByteReturnsTheNextByte :
    (one bytesA 0 9 [.byteStore .readByte]).script = .byteStore .readByte :: [] ∧
    (one bytesA 0 9 [.byteStore .readByte]).seq.len ≤ 9 ∧ ¬ (one bytesA 0 8 [.byteStore .readByte]).seq.len ≤ 8 := by decide

theorem witness_SlicesCopyTheirSpan :
    1 ≤ 2 ∧ (one bytesA 0 7 [.byteStore (.readSlice 2)]).script = .byteStore (.readSlice 2) :: [] ∧
    (one bytesA 0 3 [.byteStore (.readSliceAt 7 2)]).script = .byteStore (.readSliceAt 7 2) :: [] ∧
    ¬ (one bytesA 0 7 []).seq.len < 7 + 2 ∧ (one bytesA 0 8 []).seq.len < 8 + 2 := by decide

theorem witness_NumbersAssembleInByteOrder :
    (one bytesA 0 1 [.byteStore (.readSignedLong 8)]).script = .byteStore (.readSignedLong 8) :: [] ∧ 1 ≤ 8 ∧
    ((ByteStoreOp.readSignedLong 8, 8, true) : ByteStoreOp × Nat × Bool) ∈
      [(.readUnsigned 8, 2, false), (.readSignedInt 8, 4, true), (.readSignedLong 8, 8, true), (.readUnsignedWide 8, 8, false)] := by decide

theorem witness_BigEndianNumberIsTheBitField : 1 ≤ 8 ∧ 8 ≤ 8 ∧ 1 + 8 ≤ (one bytesA 0 0).seq.len := by decide

theorem witness_ByteStoreFrame :
    (one bytesA 0 9 [.byteStore .readByte]).script = .byteStore .readByte :: [] ∧
    step (one bytesA 0 9 [.byteStore .readByte]) = .next ((one bytesA 0 9 [.byteStore .readByte]).stored [] 9 .outOfRangeError) := ⟨rfl, rfl⟩

theorem witness_ZeroLengthRequestIsTheOpenParameter :
    (one bytesA 0 3 [.byteStore (.readSliceAt 7 0)]).script = .byteStore (.readSliceAt 7 0) :: [] ∧
    ((ByteStoreOp.readSliceAt 7 0, ByteStoreResult.slice []) : ByteStoreOp × ByteStoreResult) ∈
      [(.readSlice 0, .slice []), (.readSliceAt 7 0, .slice []), (.readUnsigned 0, .number 0), (.readSignedInt 0, .number 0),
        (.readSignedLong 0, .number 0), (.readUnsignedWide 0, .number 0)] := by decide

theorem witness_AccessorsChangeNothing :
    (one bytesA 0 3 [.byteStore .remaining]).script = .byteStore .remaining :: [] ∧
    ((ByteStoreOp.remaining, (9 : Int) - 3) : ByteStoreOp × Int) ∈ [(.position, 3), (.remaining, 9 - 3), (.length, 9)] := by decide

/-- P2 of 95_test_vectors has such a pair: `RDU 5`, then `readByte()`. -/
theorem witness_PartlyConsumedByteIsReadWhole :
    ∃ s t c rest r, s.script = .command c :: .byteStore .readByte :: rest ∧ decode c.cmd = .ok (.rdu 5) ∧
      relative (.rdu 5) = true ∧ 1 ≤ fieldWidth (.rdu 5) ∧ s.bitpos[c.port]? = some 0 ∧ step s = .next t ∧
      t.output = some (.response ⟨c.port, 0b00#2, r⟩) ∧ (0 + fieldWidth (.rdu 5)) % 8 ≠ 0 :=
  ⟨one [0x5A#8, 0xC3#8, 0x7E#8] 0 0 [.command ⟨0, 0x0051#16, 0⟩, .byteStore .readByte], _, _, _, 0xB#64, rfl, by decide,
    rfl, by decide, rfl, goesOn_next State.reset (by decide), by decide, by decide⟩

end Sys2Proof.Tests
end

