-- ==== Sys2Proof/Proofs/Construction.lean ====
section
/-! SUPPORT. What legal parameters say, and the invariant of the state that construction makes from them
(00_scope R9, 10_state R33). -/
namespace Sys2Proof

/-- The bounds of 00_scope R9 and D12, one conjunct per parameter. -/
theorem Params.legal_iff (p : Params) :
    p.legal = true ↔
      p.initBc ≤ p.seq.length ∧ 1 ≤ p.nViews ∧ p.posW ≤ 64 ∧ 8 * p.seq.length < 2 ^ p.posW := by
  simp [Params.legal, and_assoc]

theorem Params.default_legal : Params.default.legal = true := by decide

end Sys2Proof

namespace Sys2Proof.Machine

theorem Memory.ofBytes_wf (bs : List Byte) : (Memory.ofBytes bs).wf = true :=
  Memory.ofBytesFrom_wf bs 0

theorem Memory.ofBytes_address_lt (bs : List Byte) : ∀ c ∈ Memory.ofBytes bs, c.1 < bs.length := by
  intro c hc
  have h := (Memory.ofBytesFrom_addresses bs 0 c hc).2
  rwa [Nat.zero_add] at h

/-- Every instance starts at bit 0 of the byte at `INIT_BC` (10_state R33). -/
theorem State.eq_of_mem_boot_bitpos {p : Params} {b : Nat} (h : b ∈ (State.boot p).bitpos) :
    b = 8 * p.initBc :=
  List.eq_of_mem_replicate h

@[simp] theorem State.boot_bitpos_length (p : Params) : (State.boot p).bitpos.length = p.nViews :=
  List.length_replicate

theorem State.boot_inv {p : Params} (h : p.legal = true) : (State.boot p).Inv := by
  obtain ⟨hbc, hviews, hposW, hlen⟩ := p.legal_iff.mp h
  have hbitpos : ∀ b ∈ (State.boot p).bitpos, b ≤ 8 * p.seq.length := by
    intro b hb
    rw [State.eq_of_mem_boot_bitpos hb]
    exact Nat.mul_le_mul_left 8 hbc
  have hfits : 8 * p.seq.length < 2 ^ 64 := hlen.trans_le (Nat.pow_le_pow_right (by decide) hposW)
  have hport : 0 < (State.boot p).bitpos.length := by
    rw [State.boot_bitpos_length]
    exact hviews
  exact ⟨Memory.ofBytes_wf p.seq, Memory.ofBytes_address_lt p.seq, hbc, hbitpos, hfits, hport⟩

/-- Settles O36: each clause of the invariant from the bound of 00_scope R9 it rests on; the parameters of
`State.reset` are legal. -/
theorem invariantHoldsAtBoot : Obligations.InvariantHoldsAtBoot :=
  ⟨fun _ h => State.boot_inv h, State.boot_inv Params.default_legal⟩

end Sys2Proof.Machine
end

/-! SUPPORT. What a command, a byte-store operation and a step can do to the two cursors (10_state R20 to R23), and
the claims that follow from it. -/
namespace Sys2Proof.Machine

/-! ## Construction -/

/-- The byte-read port gives exactly the caller's bytes (20_memory R50). -/
theorem Memory.memRead_ofBytes (bs : List Byte) (i : Nat) :
    Sequence.memRead ⟨bs.length, Memory.ofBytes bs⟩ i = bs[i]? := by
  rcases Nat.lt_or_ge i bs.length with hi | hi
  · have hread : (Memory.ofBytes bs).read i = bs.getD i unlistedByte := by
      simpa only [Nat.zero_add, Memory.ofBytes] using Memory.read_ofBytesFrom bs 0 i
    rw [Sequence.memRead_of_lt hi]
    simp [hread, hi]
  · rw [Sequence.memRead_of_le hi, List.getElem?_eq_none hi]

/-- Settles O1: every field is the value construction writes, and the memory reads back the caller's bytes. -/
theorem bootHoldsTheAttachValues : Obligations.BootHoldsTheAttachValues :=
  ⟨fun p => ⟨rfl, rfl, rfl, rfl, Memory.memRead_ofBytes p.seq, rfl, rfl⟩, rfl, rfl⟩

/-! ## Commands -/

theorem widthOutside_eq_false {w a b : Nat} : widthOutside w a b = false ↔ a ≤ w ∧ w ≤ b := by
  simp [widthOutside]

/-- An extraction that completes stops behind its field (40_datapath R81). -/
theorem extract_stop_eq {q : Sequence} {start n stop : Nat} {raw : Word}
    (h : (extract q start n).field = some (stop, raw)) : stop = start + n := by
  simp only [extract] at h
  split at h
  · cases h
  · cases h; rfl

/-- An extraction completes only for a field inside the sequence (40_datapath R86). -/
theorem extract_field_le_end {q : Sequence} {start n : Nat} (hn : 1 ≤ n) (hn64 : n ≤ 64)
    (h : (extract q start n).field ≠ none) : start + n ≤ 8 * q.len := by
  have raises : (extractLoop q n n (Datapath.start q start)).raised = true → (extract q start n).field = none :=
    fun hr => if_pos hr
  rcases Datapath.start_cases q start n hn with ⟨hp, hdone⟩ | hov
  · rcases extractLoop_cases hn64 n _ hp (by omega) (by omega) with ⟨hend, hall, -⟩ | hov
    · have := hend.position
      have := hend.offset
      have := hend.inside
      omega
    · exact absurd (raises hov.stopped) h
  · have hstop : ∀ fuel, extractLoop q n fuel (Datapath.start q start) = Datapath.start q start := by
      intro fuel
      cases fuel with
      | zero => rfl
      | succ k => exact if_pos (by simp [hov.stopped])
    exact absurd (raises (by rw [hstop]; exact hov.stopped)) h

/-- A relative read answers and changes nothing else, or commits the end of a field inside the sequence. -/
theorem relativeRead_answers_or_commits {w a b : Nat} {conv : Word → Nat → Word} {s t : State} (hb : b ≤ 64)
    (h : relativeRead w a b conv s = .next t) : ∃ p, s.bitpos[s.port]? = some p ∧
      ((∃ st r rs, t = s.respond st r rs) ∨
       (1 ≤ w ∧ p + w ≤ 8 * s.seq.len ∧ ∃ r rs, t = (s.commit (p + w)).respond .ok r rs)) := by
  obtain ⟨p, hp, ⟨-, ht⟩ | ⟨-, -, ht⟩ | ⟨-, -, -, ht⟩ | ⟨hw, h0, stop, raw, hf, ht⟩⟩ := relativeRead_next h
  · exact ⟨p, hp, .inl ⟨_, _, _, ht⟩⟩
  · exact ⟨p, hp, .inl ⟨_, _, _, ht⟩⟩
  · exact ⟨p, hp, .inl ⟨_, _, _, ht⟩⟩
  · have hpos : 1 ≤ w := Nat.one_le_iff_ne_zero.mpr h0
    have hend := extract_field_le_end hpos ((widthOutside_eq_false.mp hw).2.trans hb)
      (Option.ne_none_iff_exists'.mpr ⟨_, hf⟩)
    rw [extract_stop_eq hf] at ht
    exact ⟨p, hp, .inr ⟨hpos, hend, _, _, ht⟩⟩

/-- An absolute read answers and changes nothing else (40_datapath R92). -/
theorem absoluteRead_answers {w a b : Nat} {conv : Word → Nat → Word} {s t : State}
    (h : absoluteRead w a b conv s = .next t) :
    ∃ p, s.bitpos[s.port]? = some p ∧ ∃ st r rs, t = s.respond st r rs := by
  obtain ⟨p, hp, ⟨-, ht⟩ | ⟨-, -, ht⟩ | ⟨-, _, _, -, ht⟩⟩ := absoluteRead_next h <;> exact ⟨p, hp, _, _, _, ht⟩

/-- Every relative read is an arm of `RelativeRead`, over at most 64 bits (41_relative_reads R100 to R105). -/
theorem exec_of_relative {i : Instr} (h : relative i = true) (s : State) :
    ∃ a b conv, b ≤ 64 ∧ exec i s = relativeRead (fieldWidth i) a b conv s := by
  cases i with
  | rdu w => exact ⟨0, 16, toUnsigned, by decide, rfl⟩
  | rdbit => exact ⟨1, 1, toBoolean, by decide, rfl⟩
  | rdsi w => exact ⟨0, 32, toSigned, by decide, rfl⟩
  | rdsl w => exact ⟨0, 64, toSigned, by decide, rfl⟩
  | rdul w => exact ⟨0, 64, toUnsigned, by decide, rfl⟩
  | getpos | rduat w | rdsat w | rdbitat => cases h

/-- A command that is no relative read answers and changes nothing else. -/
theorem exec_answers_of_not_relative {i : Instr} {s t : State} (hi : relative i = false) (h : exec i s = .next t) :
    ∃ p, s.bitpos[s.port]? = some p ∧ ∃ st r rs, t = s.respond st r rs := by
  cases i with
  | getpos =>
    obtain ⟨p, hp, ht⟩ := onPort_next h
    cases ht
    exact ⟨p, hp, _, _, _, rfl⟩
  | rduat w | rdsat w | rdbitat => exact absoluteRead_answers h
  | rdu w | rdbit | rdsi w | rdsl w | rdul w => cases hi

/-- Everything a command that goes on can do to the state: it answers and changes nothing else, or it is a relative
read of at least one bit that commits the end of its field and answers `OK`. -/
theorem exec_next {i : Instr} {s t : State} (h : exec i s = .next t) : ∃ p, s.bitpos[s.port]? = some p ∧
    ((∃ st r rs, t = s.respond st r rs) ∨
     (relative i = true ∧ 1 ≤ fieldWidth i ∧ p + fieldWidth i ≤ 8 * s.seq.len ∧
       ∃ r rs, t = (s.commit (p + fieldWidth i)).respond .ok r rs)) := by
  cases hi : relative i with
  | true =>
    obtain ⟨a, b, conv, hb, he⟩ := exec_of_relative hi s
    obtain ⟨p, hp, ha | hc⟩ := relativeRead_answers_or_commits hb (he ▸ h)
    · exact ⟨p, hp, .inl ha⟩
    · exact ⟨p, hp, .inr ⟨rfl, hc⟩⟩
  | false =>
    obtain ⟨p, hp, ha⟩ := exec_answers_of_not_relative hi h
    exact ⟨p, hp, .inl ha⟩

/-! ## Byte-store operations -/

/-- The bytes of a span are given only for a span inside the sequence (44_bytestore_interface R160). -/
theorem Sequence.le_len_of_bytesAt {q : Sequence} {a n : Nat} {bs : List Byte} (h : q.bytesAt a n = some bs) :
    a + n ≤ q.len := by
  by_contra hlt
  rw [Sequence.bytesAt, if_neg hlt] at h
  cases h

@[simp] theorem zeroLength_bc (r : ByteStoreResult) (s : State) : (zeroLength r s).bc = s.bc := by
  obtain ⟨r', hr⟩ := zeroLength_eq r s
  rw [hr, State.yield_bc]

theorem readByte_bc (s : State) : (readByte s).bc = s.bc ∨ (readByte s).bc ≤ s.seq.len := by
  unfold readByte
  split
  · exact .inl rfl
  · rename_i hb
    exact .inr (Sequence.memRead_eq_some.mp hb).1

theorem readSlice_bc (n : Nat) (s : State) : (readSlice n s).bc = s.bc ∨ (readSlice n s).bc ≤ s.seq.len := by
  unfold readSlice
  split
  · exact .inl (zeroLength_bc _ s)
  · split
    · exact .inl rfl
    · rename_i hb
      exact .inr (Sequence.le_len_of_bytesAt hb)

theorem readSliceAt_bc (position n : Nat) (s : State) : (readSliceAt position n s).bc = s.bc := by
  unfold readSliceAt
  split
  · exact zeroLength_bc _ s
  · split <;> rfl

theorem multiByteRead_bc (n nmax : Nat) (number : Nat → Nat → Int) (s : State) :
    (multiByteRead n nmax number s).bc = s.bc ∨ (multiByteRead n nmax number s).bc ≤ s.seq.len := by
  unfold multiByteRead
  split
  · exact .inl rfl
  · split
    · exact .inl (zeroLength_bc _ s)
    · split
      · exact .inl rfl
      · rename_i hb
        exact .inr (Sequence.le_len_of_bytesAt hb)

/-- An operation that does not move `BC` leaves it (44_bytestore_interface R163, R169). -/
theorem byteStore_bc_of_not_movesBc {op : ByteStoreOp} (h : movesBc op = false) (s : State) :
    (byteStore op s).bc = s.bc := by
  cases op with
  | readSliceAt position n => exact readSliceAt_bc position n s
  | position | remaining | length => rfl
  | readByte | readSlice n | readUnsigned n | readSignedInt n | readSignedLong n | readUnsignedWide n => cases h

/-- No operation moves `BC` past the end of the sequence (44_bytestore_interface R160). -/
theorem byteStore_bc (op : ByteStoreOp) (s : State) :
    (byteStore op s).bc = s.bc ∨ (byteStore op s).bc ≤ s.seq.len := by
  cases op with
  | readByte => exact readByte_bc s
  | readSlice n => exact readSlice_bc n s
  | readUnsigned n | readSignedInt n | readSignedLong n | readUnsignedWide n => exact multiByteRead_bc n _ _ s
  | readSliceAt position n => exact .inl (readSliceAt_bc position n s)
  | position | remaining | length => exact .inl rfl

@[simp] theorem byteStore_seq (op : ByteStoreOp) (s : State) : (byteStore op s).seq = s.seq := by
  obtain ⟨v, r, h⟩ := byteStore_eq op s
  rw [h, State.yield_seq, State.setBc_seq]

@[simp] theorem byteStore_bitpos (op : ByteStoreOp) (s : State) : (byteStore op s).bitpos = s.bitpos := by
  obtain ⟨v, r, h⟩ := byteStore_eq op s
  rw [h, State.yield_bitpos, State.setBc_bitpos]

@[simp] theorem byteStore_port (op : ByteStoreOp) (s : State) : (byteStore op s).port = s.port := by
  obtain ⟨v, r, h⟩ := byteStore_eq op s
  rw [h, State.yield_port, State.setBc_port]

/-! ## Steps -/

theorem step_of_script_nil {s : State} (h : s.script = []) : step s = .next s.quiet := by
  rw [step, h]

theorem step_of_script_cons {s : State} {h : HostStep} {rest : List HostStep} (hs : s.script = h :: rest) :
    step s = runHostStep h { s with script := rest } := by
  rw [step, hs]

/-- What the step from `s` to `t` does to the cursors, by what the host issued (10_state R20, R22). -/
inductive CursorChange (s t : State) : Prop where
  /-- Neither cursor is written. -/
  | held (hbitpos : t.bitpos = s.bitpos) (hbc : t.bc = s.bc)
  /-- A relative read of at least one bit ends `OK` and commits both cursors (40_datapath R88). -/
  | read (c : Command) (rest : List HostStep) (i : Instr) (p : Nat) (r : Word)
      (hscript : s.script = .command c :: rest) (hdecode : decode c.cmd = .ok i) (hrelative : relative i = true)
      (hwidth : 1 ≤ fieldWidth i) (hcursor : s.bitpos[c.port]? = some p)
      (hend : p + fieldWidth i ≤ 8 * s.seq.len)
      (hbitpos : t.bitpos = s.bitpos.set c.port (p + fieldWidth i)) (hbc : t.bc = (p + fieldWidth i) / 8)
      (houtput : t.output = some (.response ⟨c.port, 0b00#2, r⟩))
  /-- A byte-store operation advances `BC` (44_bytestore_interface R160). -/
  | stored (op : ByteStoreOp) (rest : List HostStep) (hscript : s.script = .byteStore op :: rest)
      (hmoves : movesBc op = true) (hbitpos : t.bitpos = s.bitpos) (hbc : t.bc ≤ s.seq.len)
  /-- The host moves `BC` (44_bytestore_interface R170). -/
  | moved (v : Nat) (rest : List HostStep) (hscript : s.script = .moveBc v :: rest)
      (hbitpos : t.bitpos = s.bitpos) (hbc : t.bc ≤ s.seq.len)
  /-- An attach starts a bit cursor at `8 * BC` (70_reset_and_hazards R210). -/
  | attached (k : Nat) (rest : List HostStep) (hscript : s.script = .attach k :: rest)
      (hbitpos : t.bitpos = s.bitpos.set k (8 * s.bc)) (hbc : t.bc = s.bc)

/-- What a byte-store operation does to the cursors. -/
theorem byteStore_cursorChange {s : State} {op : ByteStoreOp} {rest : List HostStep}
    (hs : s.script = .byteStore op :: rest) : CursorChange s (byteStore op { s with script := rest }) := by
  cases hm : movesBc op with
  | false => exact .held (byteStore_bitpos op _) (byteStore_bc_of_not_movesBc hm _)
  | true =>
    rcases byteStore_bc op { s with script := rest } with hbc | hbc
    · exact .held (byteStore_bitpos op _) hbc
    · exact .stored op rest hs hm (byteStore_bitpos op _) hbc

/-- Everything a step that goes on can do to the cursors. -/
theorem step_cursorChange {s t : State} (h : step s = .next t) : CursorChange s t := by
  obtain ⟨-, rfl⟩ | ⟨c, rest, i, hs, hd, he⟩ | ⟨c, rest, e, p, -, -, -, rfl⟩ | ⟨op, rest, hs, rfl⟩ |
    ⟨v, rest, hs, hv, rfl⟩ | ⟨k, rest, hs, -, rfl⟩ := step_next h
  · exact .held rfl rfl
  · obtain ⟨p, hp, ⟨st, r, rs, rfl⟩ | ⟨hrel, hw, hend, r, rs, rfl⟩⟩ := exec_next he
    · exact .held rfl rfl
    · exact .read c rest i p r hs hd hrel hw hp hend rfl rfl rfl
  · exact .held rfl rfl
  · exact byteStore_cursorChange hs
  · exact .moved v rest hs rfl hv
  · exact .attached k rest hs rfl rfl

/-- No step writes the sequence (20_memory R44). -/
theorem step_seq {s t : State} (h : step s = .next t) : t.seq = s.seq := by
  obtain ⟨-, rfl⟩ | ⟨c, rest, i, -, -, he⟩ | ⟨c, rest, e, p, -, -, -, rfl⟩ | ⟨op, rest, -, rfl⟩ |
    ⟨v, rest, -, -, rfl⟩ | ⟨k, rest, -, -, rfl⟩ := step_next h
  · rfl
  · obtain ⟨p, -, ⟨st, r, rs, rfl⟩ | ⟨-, -, -, r, rs, rfl⟩⟩ := exec_next he <;> rfl
  · rfl
  · exact byteStore_seq op _
  · rfl
  · rfl

/-- No step makes or removes a bit cursor. -/
theorem CursorChange.bitpos_length {s t : State} (h : CursorChange s t) : t.bitpos.length = s.bitpos.length := by
  cases h <;> simp only [*, List.length_set]

/-- The open port keeps a bit cursor behind it: a step opens a port only for a command that runs there. -/
theorem step_port_lt {s t : State} (h : step s = .next t) (hport : s.port < s.bitpos.length) :
    t.port < s.bitpos.length := by
  obtain ⟨-, rfl⟩ | ⟨c, rest, i, -, -, he⟩ | ⟨c, rest, e, p, -, -, hp, rfl⟩ | ⟨op, rest, -, rfl⟩ |
    ⟨v, rest, -, -, rfl⟩ | ⟨k, rest, -, -, rfl⟩ := step_next h
  · exact hport
  · obtain ⟨p, hp, ht⟩ := exec_next he
    have hc : c.port < s.bitpos.length := (List.getElem?_eq_some_iff.mp hp).1
    obtain ⟨st, r, rs, rfl⟩ | ⟨-, -, -, r, rs, rfl⟩ := ht <;> exact hc
  · exact (List.getElem?_eq_some_iff.mp hp).1
  · rw [byteStore_port]; exact hport
  · exact hport
  · exact hport

/-- `BC` stays in `[0, SEQ_LEN]` (10_state R23): a read commits the end of a field inside the sequence. -/
theorem CursorChange.bc_le {s t : State} (h : CursorChange s t) (hbc : s.bc ≤ s.seq.len) : t.bc ≤ s.seq.len := by
  cases h with
  | held _ hbc' => exact hbc' ▸ hbc
  | read _ _ _ _ _ _ _ _ _ _ hend _ hbc' => omega
  | stored _ _ _ _ _ hbc' => exact hbc'
  | moved _ _ _ _ hbc' => exact hbc'
  | attached _ _ _ _ hbc' => exact hbc' ▸ hbc

/-- No bit cursor is moved past the end (10_state R21). -/
theorem CursorChange.bitpos_le {s t : State} (h : CursorChange s t) (hbc : s.bc ≤ s.seq.len)
    (hle : ∀ p ∈ s.bitpos, p ≤ 8 * s.seq.len) : ∀ p ∈ t.bitpos, p ≤ 8 * s.seq.len := by
  have hset : ∀ k v, v ≤ 8 * s.seq.len → ∀ p ∈ s.bitpos.set k v, p ≤ 8 * s.seq.len := by
    intro k v hv p hp
    obtain hp | rfl := List.mem_or_eq_of_mem_set hp
    · exact hle p hp
    · exact hv
  cases h with
  | held hbitpos _ => exact hbitpos ▸ hle
  | read c _ i p _ _ _ _ _ _ hend hbitpos => exact hbitpos ▸ hset c.port _ hend
  | stored _ _ _ _ hbitpos => exact hbitpos ▸ hle
  | moved _ _ _ hbitpos => exact hbitpos ▸ hle
  | attached k _ _ hbitpos _ => exact hbitpos ▸ hset k _ (Nat.mul_le_mul_left 8 hbc)

/-- Settles O37: the sequence is never written, and each cursor's bound is kept by every way a step can change it. -/
theorem everyStepKeepsTheInvariant : Obligations.EveryStepKeepsTheInvariant := by
  intro s t hinv h
  obtain ⟨hwf, haddr, hbc, hbitpos, hfits, hport⟩ := hinv
  have hc := step_cursorChange h
  have hseq := step_seq h
  have hport' : t.port < t.bitpos.length := hc.bitpos_length ▸ step_port_lt h hport
  unfold State.Inv
  rw [hseq]
  exact ⟨hwf, haddr, hc.bc_le hbc, hc.bitpos_le hbc hbitpos, hfits, hport'⟩

/-- A bit cursor goes back only when its port is attached (10_state R21). -/
theorem CursorChange.bitpos_mono {s t : State} (h : CursorChange s t) {k a b : Nat}
    (ha : s.bitpos[k]? = some a) (hb : t.bitpos[k]? = some b) (hk : ∀ rest, s.script ≠ .attach k :: rest) :
    a ≤ b := by
  have keep : t.bitpos[k]? = s.bitpos[k]? → a ≤ b := fun he => by
    rw [he, ha] at hb
    exact (Option.some.inj hb).le
  cases h with
  | held hbitpos _ => exact keep (by rw [hbitpos])
  | read c _ i p _ _ _ _ _ hcursor _ hbitpos =>
    by_cases hkc : c.port = k
    · subst hkc
      obtain rfl : p = a := Option.some.inj (hcursor.symm.trans ha)
      have hlt : c.port < s.bitpos.length := (List.getElem?_eq_some_iff.mp ha).1
      rw [hbitpos, List.getElem?_set_self hlt] at hb
      have := Option.some.inj hb
      omega
    · exact keep (by rw [hbitpos, List.getElem?_set_ne hkc])
  | stored _ _ _ _ hbitpos => exact keep (by rw [hbitpos])
  | moved _ _ _ hbitpos => exact keep (by rw [hbitpos])
  | attached k' rest hscript hbitpos _ =>
    have hne : k' ≠ k := fun he => hk rest (he ▸ hscript)
    exact keep (by rw [hbitpos, List.getElem?_set_ne hne])

/-- Settles O39: a commit only adds the field's width, and the bound is the invariant's after the step. -/
theorem bitCursorNeverGoesBack : Obligations.BitCursorNeverGoesBack := by
  intro s t k a b h ha hb
  refine ⟨(step_cursorChange h).bitpos_mono ha hb, fun hinv => ?_⟩
  obtain ⟨-, -, -, hbitpos, -, -⟩ := everyStepKeepsTheInvariant s t hinv h
  rw [← step_seq h]
  exact hbitpos b (List.mem_of_getElem? hb)

/-- Settles O40: of the ways a step can change the cursors, only a read and an attach write a `BITPOS`. -/
theorem onlyReadsAndAttachWriteBitpos : Obligations.OnlyReadsAndAttachWriteBitpos := by
  intro s t h hne
  cases step_cursorChange h with
  | held hbitpos _ => exact absurd hbitpos hne
  | read c rest i _ r hscript hdecode hrelative hwidth _ _ _ _ houtput =>
    exact .inr ⟨c, rest, i, r, hscript, hdecode, hrelative, hwidth, houtput⟩
  | stored _ _ _ _ hbitpos => exact absurd hbitpos hne
  | moved _ _ _ hbitpos => exact absurd hbitpos hne
  | attached k rest hscript => exact .inl ⟨k, rest, hscript⟩

/-- Settles O41: of the ways a step can change the cursors, an attach and a held step leave `BC`. -/
theorem whatWritesTheByteCursor : Obligations.WhatWritesTheByteCursor := by
  intro s t h hne
  cases step_cursorChange h with
  | held _ hbc => exact absurd hbc hne
  | read c rest i _ r hscript hdecode hrelative hwidth _ _ _ _ houtput =>
    exact .inr (.inr ⟨c, rest, i, r, hscript, hdecode, hrelative, hwidth, houtput⟩)
  | stored op rest hscript hmoves => exact .inr (.inl ⟨op, rest, hscript, hmoves⟩)
  | moved v rest hscript => exact .inl ⟨v, rest, hscript⟩
  | attached _ _ _ _ hbc => exact absurd hbc hne

/-! ## Outputs -/

theorem exec_ignores_outputs (i : Instr) (s : State) (o : Option Output) (r : List Nat) :
    exec i { s with output := o, reads := r } = exec i s := by
  cases i <;> rfl

theorem byteStore_ignores_outputs (op : ByteStoreOp) (s : State) (o : Option Output) (r : List Nat) :
    byteStore op { s with output := o, reads := r } = byteStore op s := by
  cases op <;> rfl

/-- No host step reads what an earlier one put out. -/
theorem runHostStep_ignores_outputs (h : HostStep) (s : State) (o : Option Output) (r : List Nat) :
    runHostStep h { s with output := o, reads := r } = runHostStep h s := by
  cases h with
  | command c =>
    simp only [runHostStep, runWord]
    cases decode c.cmd with
    | ok i => exact exec_ignores_outputs i (s.drive c) o r
    | error _ => rfl
  | overlap _ _ => rfl
  | byteStore op => exact congrArg Host.Outcome.next (byteStore_ignores_outputs op s o r)
  | moveBc _ => rfl
  | attach _ => rfl

/-- Settles O44, over what the host issued next. -/
theorem outputsAreNeverRead : Obligations.OutputsAreNeverRead := by
  intro s o r
  obtain ⟨script, hs⟩ : ∃ script, s.script = script := ⟨_, rfl⟩
  cases script with
  | nil =>
    rw [step_of_script_nil hs, step_of_script_nil]
    · rfl
    · exact hs
  | cons h rest =>
    rw [step_of_script_cons hs, step_of_script_cons]
    · exact runHostStep_ignores_outputs h { s with script := rest } o r
    · exact hs

end Sys2Proof.Machine

/-! SUPPORT. The extraction in closed form (40_datapath R83, R86), what a command reads and leaves of the byte store,
and the claims of 20_memory that follow. -/
namespace Sys2Proof.Machine

/-! ## The extraction in closed form -/

/-- Once the byte-read port has signalled out of range the loop does nothing more (40_datapath R81). -/
theorem extractLoop_of_raised {q : Sequence} {n : Nat} {d : Datapath} (h : d.raised = true) (fuel : Nat) :
    extractLoop q n fuel d = d := by
  cases fuel with
  | zero => rfl
  | succ fuel => rw [extractLoop, if_pos (by simp [h])]

/-- The loop of an extraction ends with the whole field, its last byte partly taken at least, or past the end of the
sequence. -/
theorem extractLoop_start_cases (q : Sequence) (start : Nat) {n : Nat} (hn : 1 ≤ n) (hn64 : n ≤ 64) :
    ((extractLoop q n n (Datapath.start q start)).Progress q start n ∧
      (extractLoop q n n (Datapath.start q start)).done = n ∧
      1 ≤ (extractLoop q n n (Datapath.start q start)).bitOffsetInByte) ∨
    (extractLoop q n n (Datapath.start q start)).Overrun q start n := by
  rcases Datapath.start_cases q start n hn with ⟨hp, hdone⟩ | hov
  · rcases extractLoop_cases hn64 n _ hp (by omega) (by omega) with ⟨hend, hall, hoff⟩ | hov
    · exact .inl ⟨hend, hall, hoff hn⟩
    · exact .inr hov
  · rw [extractLoop_of_raised hov.stopped]
    exact .inr hov

/-- A field inside the sequence: its bytes are read once each and in order, and the value is the sum of its stream bits
(40_datapath R83, R86). -/
theorem extract_inside {q : Sequence} {start n : Nat} (hn : 1 ≤ n) (hn64 : n ≤ 64) (hend : start + n ≤ 8 * q.len) :
    extract q start n = ⟨bytesOfField start n, some (start + n, BitVec.ofNat 64 (fieldValue q start n))⟩ := by
  rcases extractLoop_start_cases q start hn hn64 with ⟨hp, hall, hoff⟩ | hov
  · have hposition := hp.position
    have hoffset := hp.offset
    have hlast : (extractLoop q n n (Datapath.start q start)).bytePos = (start + n - 1) / 8 := by omega
    have hreads : (extractLoop q n n (Datapath.start q start)).reads = bytesOfField start n := by
      rw [hp.trace, hlast, bytesOfField]
    have hvalue := hp.value
    rw [hall] at hvalue
    simp [extract, hp.running, hreads, (BitVec.toNat_eq_nat.mp hvalue).2]
  · exact absurd hov.outside (by omega)

/-- A field that runs past the end: the bytes up to the end are read, and there is no value (40_datapath R86). -/
theorem extract_outside {q : Sequence} {start n : Nat} (hn : 1 ≤ n) (hn64 : n ≤ 64) (hend : 8 * q.len < start + n) :
    extract q start n = ⟨bytesToEnd q start, none⟩ := by
  rcases extractLoop_start_cases q start hn hn64 with ⟨hp, hall, -⟩ | hov
  · have hposition := hp.position
    have hoffset := hp.offset
    have hinside := hp.inside
    omega
  · simp [extract, hov.stopped, hov.trace, bytesToEnd]

/-! ## Fields -/

theorem Sequence.streamBit_congr {q q' : Sequence} {b : Nat} (h : q.bytes.read (b / 8) = q'.bytes.read (b / 8)) :
    q.streamBit b = q'.streamBit b := by
  rw [Sequence.streamBit, Sequence.streamBit, h]

/-- The value of a field depends on the bytes it covers only (20_memory R46). -/
theorem fieldValue_congr {q q' : Sequence} {start n : Nat}
    (h : ∀ i, start / 8 ≤ i → i ≤ (start + n - 1) / 8 → q.bytes.read i = q'.bytes.read i) :
    fieldValue q start n = fieldValue q' start n := by
  refine Finset.sum_congr rfl fun k hk => ?_
  have hk : k < n := Finset.mem_range.mp hk
  rw [Sequence.streamBit_congr (h ((start + k) / 8) (by omega) (by omega))]

/-- Settles O17: inside the sequence the closed form reads the covered bytes only; past its end the answer depends on
the length only. -/
theorem fieldDependsOnlyOnItsBytes : Obligations.FieldDependsOnlyOnItsBytes := by
  intro q q' start n hn hn64 hlen hbytes
  rcases Nat.lt_or_ge (8 * q.len) (start + n) with hout | hin
  · rw [extract_outside hn hn64 hout, extract_outside hn hn64 (hlen ▸ hout), bytesToEnd, bytesToEnd, hlen]
  · rw [extract_inside hn hn64 hin, extract_inside hn hn64 (hlen ▸ hin), fieldValue_congr hbytes]

/-- The word of two adjacent fields is the first, shifted, with the second after it (20_memory R47). -/
theorem ofNat_fieldValue_add (q : Sequence) (start m n : Nat) :
    BitVec.ofNat 64 (fieldValue q start (m + n)) =
      BitVec.ofNat 64 (fieldValue q start m) <<< n ||| BitVec.ofNat 64 (fieldValue q (start + m) n) := by
  have hor : fieldValue q start (m + n) = fieldValue q start m <<< n ||| fieldValue q (start + m) n := by
    rw [fieldValue_add, Nat.shiftLeft_eq, mul_comm,
      Nat.two_pow_add_eq_or_of_lt (fieldValue_lt q (start + m) n)]
  have hshift (v : Nat) : BitVec.ofNat 64 (v <<< n) = BitVec.ofNat 64 v <<< n :=
    BitVec.eq_of_toNat_eq (by simp [Nat.shiftLeft_eq])
  rw [hor, BitVec.ofNat_or, hshift]

/-- Settles O18: the three extractions in closed form. -/
theorem wideFieldIsItsParts : Obligations.WideFieldIsItsParts := by
  intro q start m n hm hn hmn hend
  refine ⟨_, _, _, ?_, ?_, ?_, ofNat_fieldValue_add q start m n⟩
  · rw [extract_inside (by omega) hmn (by omega), ← Nat.add_assoc]
  · rw [extract_inside hm (by omega) (by omega)]
  · rw [extract_inside hn (by omega) hend]

/-! ## What a command reads and leaves of the byte store -/

/-- A relative read commits `BC` and never reads it, nor `BYTE_ORDER`: the rest of its next state is the same. -/
theorem relativeRead_ignores_bc_byteOrder {w wmin wmax : Nat} {conv : Word → Nat → Word} {s t : State}
    (h : relativeRead w wmin wmax conv s = .next t) (b : Nat) (o : ByteOrder) :
    ∃ b', relativeRead w wmin wmax conv { s with bc := b, byteOrder := o } =
      .next { t with bc := b', byteOrder := o } := by
  obtain ⟨p, hp, h⟩ := onPort_next h
  rw [relativeRead, onPort_some (s := { s with bc := b, byteOrder := o }) hp]
  split at h <;> rename_i hw
  · cases h; exact ⟨b, if_pos hw⟩
  · rw [if_neg hw]
    split at h <;> rename_i h0
    · cases h; exact ⟨b, if_pos h0⟩
    · rw [if_neg h0]
      split at h <;> rename_i he <;> cases h <;> rw [he]
      · exact ⟨b, rfl⟩
      · exact ⟨_, rfl⟩

/-- An absolute read neither reads nor writes `BC` and `BYTE_ORDER`. -/
theorem absoluteRead_ignores_bc_byteOrder {w wmin wmax : Nat} {conv : Word → Nat → Word} {s t : State}
    (h : absoluteRead w wmin wmax conv s = .next t) (b : Nat) (o : ByteOrder) :
    absoluteRead w wmin wmax conv { s with bc := b, byteOrder := o } = .next { t with bc := b, byteOrder := o } := by
  obtain ⟨p, hp, h⟩ := onPort_next h
  rw [absoluteRead, onPort_some (s := { s with bc := b, byteOrder := o }) hp]
  split at h <;> rename_i hw
  · cases h; exact if_pos hw
  · rw [if_neg hw]
    split at h <;> rename_i he <;> cases h <;> rw [he] <;> rfl

/-- From any other `BC` and byte order a command goes on to the same state, but for these two. -/
theorem exec_ignores_bc_byteOrder {i : Instr} {s t : State} (h : exec i s = .next t) (b : Nat) (o : ByteOrder) :
    ∃ b', exec i { s with bc := b, byteOrder := o } = .next { t with bc := b', byteOrder := o } := by
  cases i with
  | getpos =>
    obtain ⟨p, hp, ht⟩ := onPort_next h
    cases ht
    exact ⟨b, onPort_some (s := { s with bc := b, byteOrder := o }) hp _⟩
  | rdu w | rdbit | rdsi w | rdsl w | rdul w => exact relativeRead_ignores_bc_byteOrder h b o
  | rduat w | rdsat w | rdbitat => exact ⟨b, absoluteRead_ignores_bc_byteOrder h b o⟩

/-- Settles O33: only `BC` and the byte order of the next state can differ. -/
theorem commandsReadNeitherByteCursorNorOrder : Obligations.CommandsReadNeitherByteCursorNorOrder := by
  intro i s t b o h
  obtain ⟨b', h'⟩ := exec_ignores_bc_byteOrder h b o
  exact ⟨_, h', rfl, rfl, rfl⟩

/-- A command changes the two cursors, what it puts out and the record of bytes read at most (20_memory R44). -/
theorem exec_frame {i : Instr} {s t : State} (h : exec i s = .next t) :
    t = { s with bitpos := t.bitpos, bc := t.bc, output := t.output, reads := t.reads } := by
  obtain ⟨p, -, ⟨st, r, rs, rfl⟩ | ⟨-, -, -, r, rs, rfl⟩⟩ := exec_next h <;> rfl

/-- A command leaves every other instance's `BITPOS` (60_exceptions R193). -/
theorem exec_bitpos_ne {i : Instr} {s t : State} (h : exec i s = .next t) {k : Nat} (hk : k ≠ s.port) :
    t.bitpos[k]? = s.bitpos[k]? := by
  obtain ⟨p, -, ⟨st, r, rs, rfl⟩ | ⟨-, -, -, r, rs, rfl⟩⟩ := exec_next h
  · rfl
  · exact List.getElem?_set_ne hk.symm

/-- A command that is no relative read leaves both cursors (20_memory R49). -/
theorem exec_cursors_of_not_relative {i : Instr} {s t : State} (hi : relative i = false) (h : exec i s = .next t) :
    t.bitpos = s.bitpos ∧ t.bc = s.bc := by
  obtain ⟨p, -, st, r, rs, rfl⟩ := exec_answers_of_not_relative hi h
  exact ⟨rfl, rfl⟩

/-- Settles O35. -/
theorem commandFrame : Obligations.CommandFrame := by
  intro i s t h
  have hseq : t.seq = s.seq := by rw [exec_frame h]
  exact ⟨exec_frame h, fun k hk => exec_bitpos_ne h hk, fun hi => exec_cursors_of_not_relative hi h,
    fun a => by rw [hseq]⟩

/-! ## What every step keeps of the byte store -/

@[simp] theorem byteStore_byteOrder (op : ByteStoreOp) (s : State) : (byteStore op s).byteOrder = s.byteOrder := by
  obtain ⟨v, r, h⟩ := byteStore_eq op s
  rw [h, State.yield_byteOrder, State.setBc_byteOrder]

/-- `BYTE_ORDER` is fixed at construction (10_state R34). -/
theorem step_byteOrder {s t : State} (h : step s = .next t) : t.byteOrder = s.byteOrder := by
  obtain ⟨-, rfl⟩ | ⟨c, rest, i, -, -, he⟩ | ⟨c, rest, e, p, -, -, -, rfl⟩ | ⟨op, rest, -, rfl⟩ |
    ⟨v, rest, -, -, rfl⟩ | ⟨k, rest, -, -, rfl⟩ := step_next h
  · rfl
  · rw [exec_frame he]; rfl
  · rfl
  · exact byteStore_byteOrder op _
  · rfl
  · rfl

/-- Settles O38: no step writes the sequence or the byte order, and none makes or removes a bit cursor. -/
theorem sequenceIsNeverWritten : Obligations.SequenceIsNeverWritten := by
  intro s t h
  have hseq := step_seq h
  exact ⟨hseq, step_byteOrder h, (step_cursorChange h).bitpos_length, fun a => by rw [hseq]⟩

end Sys2Proof.Machine

/-! SUPPORT. The command word by its fields (30_encoding R61): decoder, encoder, the opcode table's rows and the
assembler, and the claims about them. -/
namespace Sys2Proof

/-! ## The fields of a word -/

theorem opField_eq (c : CmdWord) : opField c = c.toNat % 16 := by
  simp [opField, BitVec.extractLsb'_toNat]

theorem widthField_eq (c : CmdWord) : widthField c = c.toNat / 16 % 128 := by
  simp [widthField, BitVec.extractLsb'_toNat, Nat.shiftRight_eq_div_pow]

theorem rsvField_eq (c : CmdWord) : rsvField c = c.toNat / 2048 := by
  have hlt : c.toNat / 2048 < 32 := by have := c.isLt; omega
  simp [rsvField, BitVec.extractLsb'_toNat, Nat.shiftRight_eq_div_pow, Nat.mod_eq_of_lt hlt]

theorem widthField_lt (c : CmdWord) : widthField c < 128 := by
  rw [widthField_eq]
  exact Nat.mod_lt _ (by decide)

theorem cmdOf_toNat {op w : Nat} (hop : op < 16) (hw : w < 128) : (cmdOf op w).toNat = w * 16 + op := by
  rw [cmdOf, BitVec.toNat_ofNat, Nat.mod_eq_of_lt (by omega)]

/-- The laid-out word is the one word with its fields. -/
theorem eq_cmdOf_iff {c : CmdWord} {op w : Nat} (hop : op < 16) (hw : w < 128) :
    c = cmdOf op w ↔ rsvField c = 0 ∧ opField c = op ∧ widthField c = w := by
  rw [← BitVec.toNat_inj, cmdOf_toNat hop hw, rsvField_eq, widthField_eq, opField_eq]
  omega

/-! ## The operands of a command -/

/-- `OP` of a command (30_encoding R66). -/
def Instr.opcode : Instr → Nat
  | .getpos => 0
  | .rdu _ => 1
  | .rdbit => 2
  | .rdsi _ => 3
  | .rdsl _ => 4
  | .rdul _ => 5
  | .rduat _ => 6
  | .rdsat _ => 7
  | .rdbitat => 8

/-- `WIDTH` of a command: 0 where it takes no width (30_encoding R62). -/
def Instr.widthOperand : Instr → Nat
  | .rdu w | .rdsi w | .rdsl w | .rdul w | .rduat w | .rdsat w => w
  | .getpos | .rdbit | .rdbitat => 0

/-- The opcodes whose command takes no width (30_encoding R68). -/
abbrev FixedOp (op : Nat) : Prop := op = 0 ∨ op = 2 ∨ op = 8

theorem encode_eq_cmdOf (i : Instr) : encode i = cmdOf i.opcode i.widthOperand := by
  cases i <;> rfl

theorem Instr.opcode_lt (i : Instr) : i.opcode < 9 := by
  cases i <;> simp [Instr.opcode]

theorem Instr.widthOperand_of_fixedOp {i : Instr} (h : FixedOp i.opcode) : i.widthOperand = 0 := by
  cases i with
  | getpos | rdbit | rdbitat => rfl
  | rdu w | rdsi w | rdsl w | rdul w | rduat w | rdsat w => simp [FixedOp, Instr.opcode] at h

theorem Instr.wf_iff (i : Instr) : i.wf = true ↔ i.widthOperand < 128 := by
  cases i <;> simp [Instr.wf, widthFits, Instr.widthOperand]

/-! ## Decoder and encoder -/

theorem instrOf_operands (i : Instr) : instrOf i.opcode i.widthOperand = .ok i := by
  cases i <;> rfl

theorem instrOf_eq_ok {op w : Nat} {i : Instr} (h : instrOf op w = .ok i) :
    op = i.opcode ∧ (¬ FixedOp op → w = i.widthOperand) := by
  unfold instrOf at h
  split at h <;> cases h <;> exact ⟨rfl, by simp [FixedOp, Instr.widthOperand]⟩

theorem instrOf_eq_error_iff {op w : Nat} : (∃ e, instrOf op w = .error e) ↔ 9 ≤ op := by
  constructor
  · rintro ⟨e, h⟩
    by_contra hop
    rw [not_le] at hop
    interval_cases op <;> cases h
  · intro hop
    obtain ⟨k, rfl⟩ := Nat.exists_eq_add_of_le' hop
    exact ⟨_, rfl⟩

/-- The decoder accepts a word for one command only, the one with its fields. -/
theorem decode_eq_ok_iff_fields {c : CmdWord} {i : Instr} :
    decode c = .ok i ↔ rsvField c = 0 ∧ opField c = i.opcode ∧ widthField c = i.widthOperand := by
  unfold decode
  constructor
  · intro h
    split at h
    · cases h
    rename_i hrsv
    split at h
    · cases h
    rename_i hlegal
    obtain ⟨hop, hwidth⟩ := instrOf_eq_ok h
    refine ⟨not_not.mp hrsv, hop, ?_⟩
    by_cases hf : FixedOp (opField c)
    · rw [Instr.widthOperand_of_fixedOp (hop ▸ hf)]
      exact by_contra fun hne => hlegal ⟨hf, hne⟩
    · exact hwidth hf
  · rintro ⟨hrsv, hop, hwidth⟩
    have hfixed : ¬ (FixedOp i.opcode ∧ i.widthOperand ≠ 0) := fun ⟨hf, hne⟩ =>
      hne (Instr.widthOperand_of_fixedOp hf)
    rw [hop, hwidth, if_neg (by simp [hrsv]), if_neg hfixed, instrOf_operands]

/-- Decoder and encoder invert each other (30_encoding R66, R67). -/
theorem decode_eq_ok_iff {c : CmdWord} {i : Instr} : decode c = .ok i ↔ i.wf = true ∧ encode i = c := by
  have hop : i.opcode < 16 := i.opcode_lt.trans (by decide)
  rw [decode_eq_ok_iff_fields, i.wf_iff, encode_eq_cmdOf, eq_comm (b := c)]
  constructor
  · intro h
    have hw : i.widthOperand < 128 := h.2.2 ▸ widthField_lt c
    exact ⟨hw, (eq_cmdOf_iff hop hw).mpr h⟩
  · rintro ⟨hw, hc⟩
    exact (eq_cmdOf_iff hop hw).mp hc

/-- The words the decoder rejects, by their fields (30_encoding R68). -/
theorem decode_eq_error_iff {c : CmdWord} :
    (∃ e, decode c = .error e) ↔ rsvField c ≠ 0 ∨ 9 ≤ opField c ∨ (FixedOp (opField c) ∧ widthField c ≠ 0) := by
  unfold decode
  split
  · rename_i hrsv
    exact iff_of_true ⟨_, rfl⟩ (.inl hrsv)
  · rename_i hrsv
    split
    · rename_i hfixed
      exact iff_of_true ⟨_, rfl⟩ (.inr (.inr hfixed))
    · rename_i hlegal
      simp only [instrOf_eq_error_iff, hrsv, hlegal, false_or, or_false]

/-- Settles O2. -/
theorem decodeOfEncodeIsTheCommand : Obligations.DecodeOfEncodeIsTheCommand :=
  fun _ hwf => decode_eq_ok_iff.mpr ⟨hwf, rfl⟩

/-- Settles O3. -/
theorem encodeOfDecodeIsTheWord : Obligations.EncodeOfDecodeIsTheWord :=
  fun _ _ h => decode_eq_ok_iff.mp h

/-- Settles O5, word by word. -/
theorem wordsOfTheSpecDecode : Obligations.WordsOfTheSpecDecode := by
  unfold Obligations.WordsOfTheSpecDecode
  decide

/-! ## The opcode table -/

/-- The row of a command in spec/opcode_table.json: it fixes the width too where the command takes none. -/
def rowOf (i : Instr) : Row :=
  ⟨i.mnemonic, if FixedOp i.opcode then 0xFFFF#16 else 0xF80F#16, BitVec.ofNat 16 i.opcode⟩

/-- One command of each row of the opcode table, in its order. -/
def rowCommands : List Instr :=
  [.getpos, .rdu 0, .rdbit, .rdsi 0, .rdsl 0, .rdul 0, .rduat 0, .rdsat 0, .rdbitat]

theorem opcodeTable_eq : opcodeTable = rowCommands.map rowOf := rfl

/-- The mask of a width-taking row keeps the reserved bits and the opcode. -/
theorem and_0xF80F_toNat (c : CmdWord) : (c &&& 0xF80F#16).toNat = rsvField c * 2048 + opField c := by
  have hsplit : c &&& 0xF80F#16 = (c >>> 11) <<< 11 ||| c &&& 0xF#16 := by
    ext i hi
    have hmask : ∀ i, (hi : i < 16) → (0xF80F#16)[i] = (decide (11 ≤ i) || (0xF#16)[i]) := by decide
    rcases Nat.lt_or_ge i 11 with hlow | hhigh
    · simp [hmask i hi, hlow, hlow.not_ge]
    · simpa [hmask i hi, hhigh, hhigh.not_gt, BitVec.getLsbD_eq_getElem hi] using fun hc _ => hc
  have hlow : (c &&& 0xF#16).toNat = opField c := by
    rw [opField_eq, BitVec.toNat_and]
    exact Nat.and_two_pow_sub_one_eq_mod _ 4
  have hhigh : ((c >>> 11) <<< 11).toNat = 2 ^ 11 * rsvField c := by
    have := c.isLt
    rw [rsvField_eq, BitVec.toNat_shiftLeft, BitVec.toNat_ushiftRight, Nat.shiftLeft_eq, Nat.shiftRight_eq_div_pow]
    omega
  have hlt : opField c < 2 ^ 11 := by rw [opField_eq]; omega
  rw [hsplit, BitVec.toNat_or, hhigh, hlow, ← Nat.two_pow_add_eq_or_of_lt hlt, mul_comm]

theorem rowOf_mask_of_fixedOp {i : Instr} (h : FixedOp i.opcode) : (rowOf i).mask = 0xFFFF#16 :=
  if_pos h

theorem rowOf_mask_of_not_fixedOp {i : Instr} (h : ¬ FixedOp i.opcode) : (rowOf i).mask = 0xF80F#16 :=
  if_neg h

theorem rowOf_pattern_toNat (i : Instr) : (rowOf i).pattern.toNat = i.opcode :=
  Nat.mod_eq_of_lt (i.opcode_lt.trans (by decide))

/-- A word belongs to a command's row by its fields. -/
theorem rowOf_holds_iff (i : Instr) (c : CmdWord) :
    (rowOf i).holds c = true ↔
      rsvField c = 0 ∧ opField c = i.opcode ∧ (FixedOp i.opcode → widthField c = 0) := by
  have hop := i.opcode_lt
  rw [Row.holds, beq_iff_eq, ← BitVec.toNat_inj, rowOf_pattern_toNat]
  by_cases hf : FixedOp i.opcode
  · have hall : c &&& 0xFFFF#16 = c := BitVec.and_allOnes
    rw [rowOf_mask_of_fixedOp hf, hall, rsvField_eq, opField_eq, widthField_eq]
    simp only [hf, forall_const]
    omega
  · rw [rowOf_mask_of_not_fixedOp hf, and_0xF80F_toNat, opField_eq]
    simp only [hf, false_imp_iff, and_true]
    omega

/-- An accepted word belongs to the rows of its opcode. -/
theorem rowOf_holds_of_decode {c : CmdWord} {i : Instr} (h : decode c = .ok i) (j : Instr) :
    (rowOf j).holds c = decide (j.opcode = i.opcode) := by
  obtain ⟨hrsv, hop, hwidth⟩ := decode_eq_ok_iff_fields.mp h
  rw [Bool.eq_iff_iff, rowOf_holds_iff, decide_eq_true_iff, hrsv, hop, hwidth]
  constructor
  · exact fun ⟨_, he, _⟩ => he.symm
  · exact fun he => ⟨rfl, he.symm, fun hf => Instr.widthOperand_of_fixedOp (he ▸ hf)⟩

/-- A rejected word belongs to no row. -/
theorem not_rowOf_holds_of_error {c : CmdWord} {e : DecodeError} (h : decode c = .error e) (j : Instr) :
    (rowOf j).holds c = false := by
  rw [Bool.eq_false_iff, ne_eq, rowOf_holds_iff]
  rintro ⟨hrsv, hop, hwidth⟩
  have hlt := j.opcode_lt
  rcases decode_eq_error_iff.mp ⟨e, h⟩ with hr | ho | ⟨hf, hw⟩
  · exact hr hrsv
  · omega
  · exact hw (hwidth (hop ▸ hf))

/-- Each opcode has one row, and it bears the mnemonic of its command. -/
theorem rowCommands_filter_opcode (i : Instr) :
    (rowCommands.filter fun j => decide (j.opcode = i.opcode)).map Instr.mnemonic = [i.mnemonic] := by
  cases i <;> rfl

/-- Settles O4. -/
theorem decoderAgreesWithTheOpcodeTable : Obligations.DecoderAgreesWithTheOpcodeTable := by
  intro c
  have hrows : (opcodeTable.filter fun r => r.holds c).map Row.mnemonic =
      (rowCommands.filter fun j => (rowOf j).holds c).map Instr.mnemonic := by
    rw [opcodeTable_eq, List.filter_map, List.map_map]
    rfl
  rw [hrows]
  cases h : decode c with
  | ok i => simp only [rowOf_holds_of_decode h, rowCommands_filter_opcode]
  | error e => simp [not_rowOf_holds_of_error h]

/-! ## The assembler -/

theorem Instr.readsPos_eq_absolute (i : Instr) : i.readsPos = Machine.absolute i := by
  cases i <;> rfl

theorem Instr.not_wf_iff (i : Instr) : ¬ i.wf = true ↔ 127 < Machine.fieldWidth i := by
  cases i with
  | getpos | rdbit | rdbitat => decide
  | rdu w | rdsi w | rdsl w | rdul w | rduat w | rdsat w => exact decide_eq_true_iff.not.trans not_lt

/-- What the assembler writes for the lines it accepts (30_encoding R70). -/
theorem assemble_eq_some_iff {i : Instr} {pos : Option Nat} {out : CmdWord × Word} :
    assemble i pos = some out ↔
      (i.wf = true ∧ i.readsPos = pos.isSome ∧ pos.getD 0 < 2 ^ 64) ∧
        out = (encode i, BitVec.ofNat 64 (pos.getD 0)) := by
  simp [assemble, and_assoc, eq_comm (b := out)]

theorem assemble_eq_none_iff {i : Instr} {pos : Option Nat} :
    assemble i pos = none ↔ ¬ (i.wf = true ∧ i.readsPos = pos.isSome ∧ pos.getD 0 < 2 ^ 64) := by
  simp [assemble, and_assoc]

/-- Settles O6: the decoder inverts the encoder on what the assembler accepts. -/
theorem assemblerWritesTheCommand : Obligations.AssemblerWritesTheCommand := by
  refine ⟨fun i pos c p h => ?_, fun i pos => ?_⟩
  · obtain ⟨⟨hwf, -, hpos⟩, hout⟩ := assemble_eq_some_iff.mp h
    obtain ⟨rfl, rfl⟩ := Prod.mk.inj hout
    exact ⟨decode_eq_ok_iff.mpr ⟨hwf, rfl⟩, by rw [BitVec.toNat_ofNat, Nat.mod_eq_of_lt hpos]⟩
  · rw [assemble_eq_none_iff, not_and_or, not_and_or, i.not_wf_iff, i.readsPos_eq_absolute, not_lt, ← ne_eq,
      ne_comm]

end Sys2Proof

/-! SUPPORT. What an issued word runs as (30_encoding R60, R67, R68), and which commands read `POS` (R63). -/
namespace Sys2Proof.Machine

/-! ## Issued words -/

theorem runWord_of_ok {w : CmdWord} {i : Instr} (h : decode w = .ok i) (s : State) : runWord w s = exec i s := by
  rw [runWord, h]

theorem runWord_of_error {w : CmdWord} {e : DecodeError} (h : decode w = .error e) (s : State) :
    runWord w s = onPort s fun _ => raise .illegalCommand [] s := by
  rw [runWord, h]

theorem step_of_command {s : State} {c : Command} {rest : List HostStep} (hs : s.script = .command c :: rest) :
    step s = runWord c.cmd (s.issued c rest) :=
  step_of_script_cons hs

/-- Settles O7. -/
theorem stepRunsTheIssuedCommand : Obligations.StepRunsTheIssuedCommand := by
  intro s c rest i hs hd
  rw [step_of_command hs, runWord_of_ok hd]

theorem decodeTableWord_eq_some {w : Nat} {i : Instr} (h : decodeTableWord 16 w = some i) :
    w < 2 ^ 16 ∧ decode (BitVec.ofNat 16 w) = .ok i := by
  unfold decodeTableWord at h
  split at h
  · rename_i hw
    cases hd : decode (BitVec.ofNat 16 w) with
    | ok j => rw [hd] at h; cases h; exact ⟨hw.2, rfl⟩
    | error e => rw [hd] at h; cases h
  · cases h

/-- Settles O8: the issue drives the port and the `POS` operand that `s` holds, so the command starts from `s`. -/
theorem fetchWordIsIssuedNext : Obligations.FetchWordIsIssuedNext := by
  intro s w i h
  obtain ⟨hw, hd⟩ := decodeTableWord_eq_some h
  rw [← Nat.mod_eq_of_lt hw] at hd
  exact stepRunsTheIssuedCommand (s.withFetchWord 16 w) _ s.script i rfl hd

theorem illegalWord_iff {c : CmdWord} : illegalWord c = true ↔ ∃ e, decode c = .error e := by
  simp [illegalWord, decode_eq_error_iff, rsvField_eq, opField_eq, widthField_eq, or_assoc]

/-- Settles O9. -/
theorem illegalWordsAnswerIllegalCommand : Obligations.IllegalWordsAnswerIllegalCommand := by
  refine ⟨fun c => illegalWord_iff, fun s c rest p hs hp hill => ?_⟩
  obtain ⟨e, hd⟩ := illegalWord_iff.mp hill
  rw [step_of_command hs, runWord_of_error hd, onPort_some hp]
  rfl

/-! ## Stops -/

/-- Every command runs on the instance behind the open port (30_encoding R60). -/
theorem exec_eq_onPort (i : Instr) (s : State) : ∃ run, exec i s = onPort s run := by
  cases i <;> exact ⟨_, rfl⟩

theorem runWord_eq_onPort (w : CmdWord) (s : State) : ∃ run, runWord w s = onPort s run := by
  cases hd : decode w with
  | ok i => rw [runWord_of_ok hd]; exact exec_eq_onPort i s
  | error e => exact ⟨_, runWord_of_error hd s⟩

/-- Settles O43. -/
theorem stopsOutsideTheSpecAreNamed : Obligations.StopsOutsideTheSpecAreNamed := by
  refine ⟨fun i s hport => ?_, fun s c rest hs hport => ?_, fun s k rest hs hport => ?_, fun s v rest hs hv => ?_⟩
  · obtain ⟨run, hrun⟩ := exec_eq_onPort i s
    rw [hrun, onPort_none (List.getElem?_eq_none hport)]
  · obtain ⟨run, hrun⟩ := runWord_eq_onPort c.cmd (s.issued c rest)
    rw [step_of_command hs, hrun]
    exact onPort_none (List.getElem?_eq_none hport) run
  · rw [step_of_script_cons hs]
    exact if_neg (Nat.not_lt.mpr hport)
  · rw [step_of_script_cons hs]
    exact if_neg (Nat.not_le.mpr hv)

/-! ## The `POS` operand -/

/-- A relative read neither reads nor writes `POS`. -/
theorem relativeRead_ignores_pos {w wmin wmax : Nat} {conv : Word → Nat → Word} {s t : State}
    (h : relativeRead w wmin wmax conv s = .next t) (x : Word) :
    relativeRead w wmin wmax conv { s with pos := x } = .next { t with pos := x } := by
  obtain ⟨p, hp, h⟩ := onPort_next h
  rw [relativeRead, onPort_some (s := { s with pos := x }) hp]
  split at h <;> rename_i hw
  · cases h; exact if_pos hw
  · rw [if_neg hw]
    split at h <;> rename_i h0
    · cases h; exact if_pos h0
    · rw [if_neg h0]
      split at h <;> rename_i he <;> cases h <;> rw [he] <;> rfl

/-- Settles O34. -/
theorem onlyAbsoluteReadsUsePos : Obligations.OnlyAbsoluteReadsUsePos := by
  intro i s t x hi h
  cases i with
  | getpos =>
    obtain ⟨p, hp, ht⟩ := onPort_next h
    cases ht
    exact onPort_some (s := { s with pos := x }) hp _
  | rdu w | rdbit | rdsi w | rdsl w | rdul w => exact relativeRead_ignores_pos h x
  | rduat w | rdsat w | rdbitat => cases hi

end Sys2Proof.Machine

/-! SUPPORT. The extraction loop against the stream bits (40_datapath R82, R83, R86), the sign extender and the
conversions (R84, R85, R93), and what the two read procedures commit (R87, R88, R90, R92). -/
namespace Sys2Proof.Machine

/-! ## The extraction -/

/-- The accumulator holds every field of at most 64 bits. -/
theorem toNat_ofNat_fieldValue (q : Sequence) (start : Nat) {n : Nat} (hn64 : n ≤ 64) :
    (BitVec.ofNat 64 (fieldValue q start n)).toNat = fieldValue q start n :=
  Nat.mod_eq_of_lt ((fieldValue_lt q start n).trans_le (Nat.pow_le_pow_right (by decide) hn64))

/-- Settles O12: the closed form of the loop, whose value fits the accumulator. -/
theorem extractReadsTheField : Obligations.ExtractReadsTheField := by
  intro q start n hn hn64 hend
  have hvalue := toNat_ofNat_fieldValue q start hn64
  exact ⟨_, by rw [extract_inside hn hn64 hend], hvalue, hvalue.trans_lt (fieldValue_lt q start n)⟩

/-- Settles O13: a field either lies inside the sequence or runs past its end, and the closed form of either case names
the bytes read. -/
theorem extractReadsEachByteOnce : Obligations.ExtractReadsEachByteOnce := by
  intro q start n hn hn64
  have hlast : q.len ≤ (start + n - 1) / 8 ↔ 8 * q.len < start + n := by omega
  refine ⟨?_, hlast, ?_⟩ <;> rcases Nat.lt_or_ge (8 * q.len) (start + n) with hout | hin
  · simp [hlast, extract_outside hn hn64 hout, hout]
  · simp [hlast, extract_inside hn hn64 hin, hin]
  · rw [extract_outside hn hn64 hout]
    have hcount : (bytesToEnd q start).length ≤ 9 := by rw [bytesToEnd, List.length_range']; omega
    exact ⟨fun h => absurd rfl h, fun _ => rfl, hcount⟩
  · rw [extract_inside hn hn64 hin]
    have hcount : (bytesOfField start n).length ≤ 9 := by rw [bytesOfField, List.length_range']; omega
    exact ⟨fun _ => rfl, fun h => absurd h (Option.some_ne_none _), hcount⟩

/-- The 8-bit shifts of a pass are a bit slice of the byte (40_datapath R82). -/
theorem partOf_eq_extractLsb' (q : Sequence) (i : Nat) {k t : Nat} (h : k + t ≤ 8) :
    partOf (q.bytes.read i) k t = ((q.bytes.read i).extractLsb' (8 - k - t) t).setWidth 8 := by
  have hslice : (q.bytes.read i).toNat / 2 ^ (8 - k - t) % 2 ^ t < 2 ^ 8 :=
    (Nat.mod_lt _ (by positivity)).trans_le (Nat.pow_le_pow_right (by decide) (by omega))
  apply BitVec.eq_of_toNat_eq
  rw [partOf_toNat q i k t h, fieldValue_in_byte q i k t h, BitVec.toNat_setWidth, BitVec.extractLsb'_toNat,
    Nat.shiftRight_eq_div_pow, Nat.mod_eq_of_lt hslice]

/-- Stream bits number a byte from its most significant bit (00_scope R12). -/
theorem Sequence.streamBit_in_byte (q : Sequence) (i : Nat) {k : Nat} (hk : k < 8) :
    q.streamBit (8 * i + k) = (q.bytes.read i).getLsbD (7 - k) := by
  rw [Sequence.streamBit, show (8 * i + k) / 8 = i by omega, show (8 * i + k) % 8 = k by omega]

/-- Settles O14. -/
theorem passTakesTheNextStreamBits : Obligations.PassTakesTheNextStreamBits := by
  intro q i k t hk ht hkt
  have hpart := partOf_eq_extractLsb' q i hkt
  refine ⟨hpart, fun j hj => ?_⟩
  rw [hpart, Nat.add_assoc, q.streamBit_in_byte i (by omega), BitVec.getLsbD_setWidth, BitVec.getLsbD_extractLsb',
    show 8 - k - t + (t - 1 - j) = 7 - (k + j) by omega]
  simp [show t - 1 - j < 8 by omega, show t - 1 - j < t by omega]

/-! ## The sign extender and the conversions -/

section SignExtension
variable {raw : Word} {w : Nat}

/-- A raw value of `w` bits loses nothing in `w` bits. -/
theorem toNat_setWidth_raw (hraw : raw.toNat < 2 ^ w) : (raw.setWidth w).toNat = raw.toNat := by
  rw [BitVec.toNat_setWidth, Nat.mod_eq_of_lt hraw]

/-- The integer of the `w`-bit pattern is `SignExt` (40_datapath R84). -/
theorem toInt_setWidth_raw (hw : 1 ≤ w) (hraw : raw.toNat < 2 ^ w) : (raw.setWidth w).toInt = signExt raw w := by
  rw [BitVec.toInt_eq_msb_cond, BitVec.msb_setWidth, toNat_setWidth_raw hraw, signExt]
  simp [show 0 < w from hw]

/-- `ToSigned` encodes `SignExt` in 64 bits (40_datapath R84, R93). -/
theorem toSigned_toInt (hw : 1 ≤ w) (hw64 : w ≤ 64) (hraw : raw.toNat < 2 ^ w) :
    (toSigned raw w).toInt = signExt raw w := by
  rw [toSigned, BitVec.toInt_signExtend_of_le hw64, toInt_setWidth_raw hw hraw]

/-- The range of `SignExt` (40_datapath R84). -/
theorem signExt_bounds (hw : 1 ≤ w) (hraw : raw.toNat < 2 ^ w) :
    -(2 : Int) ^ (w - 1) ≤ signExt raw w ∧ signExt raw w < 2 ^ (w - 1) := by
  rw [← toInt_setWidth_raw hw hraw]
  exact ⟨BitVec.le_toInt _, BitVec.toInt_lt⟩

/-- Up to 32 bits wide, the low half of `ToSigned` encodes the same integer (40_datapath R84). -/
theorem toSigned_low_toInt (hw : 1 ≤ w) (hw32 : w ≤ 32) (hraw : raw.toNat < 2 ^ w) :
    ((toSigned raw w).setWidth 32).toInt = signExt raw w := by
  obtain ⟨hlo, hhi⟩ := signExt_bounds hw hraw
  have hpow : (2 : Int) ^ (w - 1) ≤ 2 ^ 31 := pow_le_pow_right₀ (by decide) (by omega)
  rw [← BitVec.signExtend_eq_setWidth_of_le _ (by decide), BitVec.toInt_signExtend_eq_toInt_bmod_of_le _ (by decide),
    toSigned_toInt hw (hw32.trans (by decide)) hraw]
  exact Int.bmod_eq_of_le (by omega) (by omega)

theorem toUnsigned_eq (hraw : raw.toNat < 2 ^ w) : toUnsigned raw w = raw := by
  apply BitVec.eq_of_toNat_eq
  rw [toUnsigned, BitVec.toNat_setWidth, toNat_setWidth_raw hraw, BitVec.toNat_mod_cancel]

/-- `ToBool` is the low bit, whatever the raw value (40_datapath R93). -/
theorem toBoolean_eq (raw : Word) (w : Nat) : toBoolean raw w = if raw.getLsbD 0 then 1#64 else 0#64 := by
  rw [toBoolean, BitVec.setWidth_one]
  cases raw.getLsbD 0 <;> rfl

/-- With its top bit set, `SignExt` subtracts `2^w`, exactly and so modulo `2^64` (40_datapath R84, R85). -/
theorem toSigned_eq_sub_of_top (hw : 1 ≤ w) (hw64 : w ≤ 64) (hraw : raw.toNat < 2 ^ w)
    (htop : raw.getLsbD (w - 1) = true) : toSigned raw w = raw - BitVec.ofNat 64 (2 ^ w) := by
  have hint : (toSigned raw w).toInt = (raw.toNat : Int) - (2 ^ w : Nat) := by
    rw [toSigned_toInt hw hw64 hraw, signExt, if_pos htop, Nat.cast_pow, Nat.cast_ofNat]
  rw [← BitVec.ofInt_toInt (x := toSigned raw w), hint, Int.sub_eq_add_neg, BitVec.ofInt_add, BitVec.ofInt_neg,
    BitVec.ofInt_natCast, BitVec.ofInt_natCast, BitVec.ofNat_toNat, BitVec.setWidth_eq, BitVec.sub_eq_add_neg]

/-- The complement of `raw - 1` is `-raw`, and the mask keeps it modulo `2^w` (40_datapath R85 a). -/
theorem not_sub_one_and_widthMask (hw64 : w ≤ 64) (hraw : raw.toNat < 2 ^ w) (hpos : 0 < raw.toNat) :
    ~~~(raw - 1#64) &&& widthMask w = BitVec.ofNat 64 (2 ^ w) - raw := by
  have hmod : (-raw).toNat % 2 ^ w = 2 ^ w - raw.toNat := by
    rw [← BitVec.toNat_setWidth, BitVec.setWidth_neg_of_le hw64, BitVec.toNat_neg, toNat_setWidth_raw hraw,
      Nat.mod_eq_of_lt (by omega)]
  have hle : 2 ^ w ≤ 2 ^ 64 := Nat.pow_le_pow_right (by decide) hw64
  have hmask : (widthMask w).toNat = 2 ^ w - 1 := Nat.mod_eq_of_lt (by omega)
  apply BitVec.eq_of_toNat_eq
  rw [BitVec.not_sub_one_eq_not_add_one, ← BitVec.neg_eq_not_add, BitVec.toNat_and, hmask,
    Nat.and_two_pow_sub_one_eq_mod, hmod, BitVec.toNat_sub, BitVec.toNat_ofNat]
  omega

/-- Form (a) of 40_datapath R85. -/
theorem signFormA_eq_toSigned (hw : 1 ≤ w) (hw64 : w ≤ 64) (hraw : raw.toNat < 2 ^ w)
    (htop : raw.getLsbD (w - 1) = true) : signFormA raw w = toSigned raw w := by
  have hpos : 0 < raw.toNat := (Nat.two_pow_pos _).trans_le (Nat.ge_two_pow_of_testBit htop)
  rw [signFormA, not_sub_one_and_widthMask hw64 hraw hpos, toSigned_eq_sub_of_top hw hw64 hraw htop, neg_sub]

/-- Form (b) of 40_datapath R85: the doubled top bit is `2^w` modulo `2^64`. -/
theorem signFormB_eq_toSigned (hw : 1 ≤ w) (hw64 : w ≤ 64) (hraw : raw.toNat < 2 ^ w)
    (htop : raw.getLsbD (w - 1) = true) : signFormB raw w = toSigned raw w := by
  have hdouble : (1#64 <<< (w - 1)) * 2#64 = BitVec.ofNat 64 (2 ^ w) := by
    apply BitVec.eq_of_toNat_eq
    have hpow : 2 ^ (w - 1) * 2 = 2 ^ w := Nat.two_pow_pred_mul_two hw
    simp [Nat.shiftLeft_eq, hpow]
  rw [signFormB, hdouble, toSigned_eq_sub_of_top hw hw64 hraw htop]

/-- Shifted to the top of the word, the raw value reads as `SignExt` scaled, whatever its top bit. -/
theorem toInt_shiftLeft_raw (hw : 1 ≤ w) (hw64 : w ≤ 64) (hraw : raw.toNat < 2 ^ w) :
    (raw <<< (64 - w)).toInt = signExt raw w * 2 ^ (64 - w) := by
  have hpow : 2 ^ w * 2 ^ (64 - w) = 2 ^ 64 := by rw [← pow_add, Nat.add_sub_cancel' hw64]
  have hfits : raw.toNat * 2 ^ (64 - w) < 2 ^ 64 := hpow ▸ Nat.mul_lt_mul_of_pos_right hraw (by positivity)
  have hmsb : (raw <<< (64 - w)).msb = raw.getLsbD (w - 1) := by
    rw [BitVec.msb_eq_getLsbD_last, BitVec.getLsbD_shiftLeft, show 64 - 1 - (64 - w) = w - 1 by omega]
    simp [show ¬ 63 < 64 - w by omega]
  rw [BitVec.toInt_eq_msb_cond, hmsb, BitVec.toNat_shiftLeft, Nat.shiftLeft_eq, Nat.mod_eq_of_lt hfits, signExt,
    ← hpow]
  split <;> push_cast <;> ring

/-- Form (c) of 40_datapath R85: the arithmetic shift back divides the scale out. -/
theorem signFormC_toInt (hw : 1 ≤ w) (hw64 : w ≤ 64) (hraw : raw.toNat < 2 ^ w) :
    (signFormC raw w).toInt = signExt raw w := by
  rw [signFormC, BitVec.toInt_sshiftRight, toInt_shiftLeft_raw hw hw64 hraw, Int.shiftRight_eq_div_pow]
  exact Int.mul_ediv_cancel _ (by positivity)

end SignExtension

/-- Settles O15. -/
theorem signExtensionIsExact : Obligations.SignExtensionIsExact := by
  intro raw w hw hw64 hraw
  obtain ⟨hlo, hhi⟩ := signExt_bounds hw hraw
  have hsigned := toSigned_toInt hw hw64 hraw
  exact ⟨hsigned, hsigned.symm, hlo, Int.le_sub_one_of_lt hhi, fun hw32 => toSigned_low_toInt hw hw32 hraw,
    toUnsigned_eq hraw, toBoolean_eq raw 1⟩

/-- Settles O16: forms (a) and (b) are the word of `ToSigned`, and form (c) is an exact division. -/
theorem sixtyFourBitSignFormsAgree : Obligations.SixtyFourBitSignFormsAgree := by
  intro raw w hw hw64 hraw htop
  have hsigned := toSigned_toInt hw hw64 hraw
  exact ⟨signFormA_eq_toSigned hw hw64 hraw htop ▸ hsigned, signFormB_eq_toSigned hw hw64 hraw htop ▸ hsigned,
    signFormC_toInt hw hw64 hraw⟩

/-! ## What a read commits -/

/-- A relative read of at least one bit that answers `OK` has committed the end of its field (40_datapath R88, R94):
the two error responses carry other status codes. -/
theorem relativeRead_ok {w a b port p : Nat} {r : Word} {conv : Word → Nat → Word} {s t : State} (hw : 1 ≤ w)
    (hp : s.bitpos[s.port]? = some p) (h : relativeRead w a b conv s = .next t)
    (hok : t.output = some (.response ⟨port, 0b00#2, r⟩)) : ∃ rs, t = (s.commit (p + w)).respond .ok r rs := by
  obtain ⟨p', hp', ⟨-, rfl⟩ | ⟨-, h0, -⟩ | ⟨-, -, -, rfl⟩ | ⟨-, -, stop, raw, hf, rfl⟩⟩ := relativeRead_next h
  · simp [Status.code] at hok
  · omega
  · simp [Status.code] at hok
  · obtain rfl : p = p' := Option.some.inj (hp.symm.trans hp')
    obtain rfl := extract_stop_eq hf
    obtain ⟨-, rfl⟩ : s.port = port ∧ conv raw w = r := by simpa [Status.code] using hok
    exact ⟨_, rfl⟩

/-- Settles O30. -/
theorem relativeReadsCommitBothCursors : Obligations.RelativeReadsCommitBothCursors := by
  intro i s t p port r hi hw hp h hok
  obtain ⟨a, b, conv, -, he⟩ := exec_of_relative hi s
  obtain ⟨rs, rfl⟩ := relativeRead_ok hw hp (he ▸ h) hok
  exact ⟨rfl, rfl⟩

/-- Settles O28: an absolute read is no relative read, so it answers and changes nothing else. -/
theorem absoluteReadsLeaveTheCursors : Obligations.AbsoluteReadsLeaveTheCursors := by
  intro i s t hi h
  refine exec_cursors_of_not_relative ?_ h
  cases i with
  | rduat w | rdsat w | rdbitat => rfl
  | getpos | rdu w | rdbit | rdsi w | rdsl w | rdul w => cases hi

/-- A relative read of no bits answers 0 before it extracts anything (40_datapath R90, R94). -/
theorem relativeRead_zero {s : State} (hport : s.port < s.bitpos.length) (wmax : Nat) (conv : Word → Nat → Word) :
    relativeRead 0 0 wmax conv s = .next (s.answers 0b00#2 0#64 []) :=
  onPort_some (List.getElem?_eq_getElem hport) _

/-- Settles O29: all four commands are `RelativeRead` from width 0 on. -/
theorem zeroWidthReadsDoNothing : Obligations.ZeroWidthReadsDoNothing := by
  intro i s hi hport
  simp only [List.mem_cons, List.not_mem_nil, or_false] at hi
  obtain rfl | rfl | rfl | rfl := hi <;> exact relativeRead_zero hport _ _

end Sys2Proof.Machine

/-! SUPPORT. The relative reads as whole next states (41_relative_reads R100 to R105): the words of a command, the
closed form of each conversion, and the closed form of `RelativeRead`. -/
namespace Sys2Proof

/-- A word with a width on a command that takes none (30_encoding R68, R71). -/
theorem decode_cmdOf_of_fixedOp {op w : Nat} (hop : FixedOp op) (hw : 1 ≤ w) (hw128 : w < 128) :
    decode (cmdOf op w) = .error .widthOnFixed := by
  obtain ⟨hrsv, hopField, hwidth⟩ := (eq_cmdOf_iff (c := cmdOf op w) (by omega) hw128).mp rfl
  rw [decode, if_neg (not_not.mpr hrsv), if_pos]
  rw [hopField, hwidth]
  exact ⟨hop, by omega⟩

end Sys2Proof

namespace Sys2Proof.Machine

/-! ## The conversions in closed form -/

theorem toNat_ofNat_of_lt_two_pow {w v : Nat} (hw64 : w ≤ 64) (hv : v < 2 ^ w) : (BitVec.ofNat 64 v).toNat = v :=
  Nat.mod_eq_of_lt (hv.trans_le (Nat.pow_le_pow_right (by decide) hw64))

theorem toUnsigned_ofNat {w v : Nat} (hw64 : w ≤ 64) (hv : v < 2 ^ w) :
    toUnsigned (BitVec.ofNat 64 v) w = unsignedResult v :=
  toUnsigned_eq ((toNat_ofNat_of_lt_two_pow hw64 hv).trans_lt hv)

/-- The top bit of a `w`-bit pattern decides its sign (40_datapath R84). -/
theorem signExt_ofNat {w v : Nat} (hw : 1 ≤ w) (hw64 : w ≤ 64) (hv : v < 2 ^ w) :
    signExt (BitVec.ofNat 64 v) w = signedValue w v := by
  have htop : (BitVec.ofNat 64 v).getLsbD (w - 1) = true ↔ 2 ^ (w - 1) ≤ v := by
    rw [BitVec.getLsbD, toNat_ofNat_of_lt_two_pow hw64 hv]
    exact ⟨Nat.ge_two_pow_of_testBit, fun hle =>
      Nat.testBit_of_two_pow_le_and_two_pow_add_one_gt hle (by rwa [Nat.sub_add_cancel hw])⟩
  simp only [signExt, signedValue, htop, toNat_ofNat_of_lt_two_pow hw64 hv]

theorem toSigned_ofNat {w v : Nat} (hw : 1 ≤ w) (hw64 : w ≤ 64) (hv : v < 2 ^ w) :
    toSigned (BitVec.ofNat 64 v) w = signedResult w v := by
  have hraw := (toNat_ofNat_of_lt_two_pow hw64 hv).trans_lt hv
  rw [signedResult, ← signExt_ofNat hw hw64 hv, ← toSigned_toInt hw hw64 hraw, BitVec.ofInt_toInt]

/-- A pattern whose top bit is 0 reads the same signed and unsigned. -/
theorem signedResult_of_lt {w v : Nat} (hv : v < 2 ^ (w - 1)) : signedResult w v = unsignedResult v := by
  rw [signedResult, signedValue, if_neg (Nat.not_le.mpr hv), BitVec.ofInt_natCast, unsignedResult]

/-- At 64 bits a signed `RESULT` is the raw pattern (41_relative_reads R104). -/
theorem signedResult_sixtyFour {v : Nat} (hv : v < 2 ^ 64) : signedResult 64 v = unsignedResult v := by
  rw [← toSigned_ofNat (by decide) le_rfl hv, toSigned, BitVec.setWidth_eq, BitVec.signExtend_eq, unsignedResult]

/-! ## `RelativeRead` in closed form -/

/-- From a port's cursor, a relative read whose conversion is `result` in closed form goes on to `relativeOutcome`
(40_datapath R86, R88 to R90, R94). -/
theorem relativeRead_eq_relativeOutcome {w wmax p : Nat} {conv : Word → Nat → Word} {result : Nat → Word} {s : State}
    (hmax : wmax ≤ 64) (hconv : 1 ≤ w → w ≤ 64 → ∀ v < 2 ^ w, conv (BitVec.ofNat 64 v) w = result v)
    (hp : s.bitpos[s.port]? = some p) :
    relativeRead w 0 wmax conv s = .next (relativeOutcome s p w wmax result) := by
  rw [relativeRead, onPort_some hp, relativeOutcome]
  rcases Nat.lt_or_ge wmax w with hwide | hw
  · rw [if_pos (by simp [widthOutside, hwide]), if_pos hwide]
    rfl
  rw [if_neg (Bool.eq_false_iff.mp (widthOutside_eq_false.mpr ⟨w.zero_le, hw⟩)), if_neg (Nat.not_lt.mpr hw)]
  rcases Nat.eq_zero_or_pos w with hzero | hpos
  · rw [if_pos hzero, if_pos hzero]
    rfl
  rw [if_neg hpos.ne', if_neg hpos.ne']
  have hw64 := hw.trans hmax
  rcases Nat.lt_or_ge (8 * s.seq.len) (p + w) with hout | hin
  · rw [extract_outside hpos hw64 hout, if_pos hout]
    rfl
  · rw [extract_inside hpos hw64 hin, if_neg (Nat.not_lt.mpr hin), ← hconv hpos hw64 _ (fieldValue_lt s.seq p w)]
    rfl

/-- Relative reads of one width differ in the width check and in the conversion only. -/
theorem relativeRead_congr {w a b a' b' : Nat} {conv conv' : Word → Nat → Word}
    (hwidth : widthOutside w a b = widthOutside w a' b') (hconv : ∀ raw, conv raw w = conv' raw w) (s : State) :
    relativeRead w a b conv s = relativeRead w a' b' conv' s := by
  simp only [relativeRead, hwidth, hconv]

/-- A larger maximum changes nothing for a width within the smaller one. -/
theorem relativeRead_eq_of_le {w b b' : Nat} (hb : w ≤ b) (hb' : w ≤ b') (conv : Word → Nat → Word) (s : State) :
    relativeRead w 0 b conv s = relativeRead w 0 b' conv s := by
  refine relativeRead_congr ?_ (fun _ => rfl) s
  rw [widthOutside_eq_false.mpr ⟨w.zero_le, hb⟩, widthOutside_eq_false.mpr ⟨w.zero_le, hb'⟩]

/-- What a relative read answers: 0 on an error or for no bits, else its field. -/
theorem relativeOutcome_response {s : State} {p w wmax : Nat} {result : Nat → Word} {r : Response}
    (h : (relativeOutcome s p w wmax result).output = some (.response r)) :
    (r.result = 0#64 ∧ (r.status = 0b00#2 → w = 0)) ∨
      (1 ≤ w ∧ w ≤ wmax ∧ r.result = result (fieldValue s.seq p w)) := by
  unfold relativeOutcome at h
  split at h
  · cases h
    exact .inl ⟨rfl, fun hok => absurd hok (by simp)⟩
  · rename_i hw
    split at h
    · rename_i hzero
      cases h
      exact .inl ⟨rfl, fun _ => hzero⟩
    · rename_i hpos
      split at h <;> cases h
      · exact .inl ⟨rfl, fun hok => absurd hok (by simp)⟩
      · exact .inr ⟨Nat.pos_of_ne_zero hpos, Nat.not_lt.mp hw, rfl⟩

/-- Only the value of the field at the cursor goes through the conversion. -/
theorem relativeOutcome_congr {s : State} {p w wmax : Nat} {result result' : Nat → Word}
    (h : 1 ≤ w → result (fieldValue s.seq p w) = result' (fieldValue s.seq p w)) :
    relativeOutcome s p w wmax result = relativeOutcome s p w wmax result' := by
  rcases Nat.eq_zero_or_pos w with rfl | hpos
  · rfl
  · rw [relativeOutcome, relativeOutcome, h hpos]

/-! ## The commands -/

theorem exec_rdu {s : State} {p : Nat} (hp : s.bitpos[s.port]? = some p) (w : Nat) :
    exec (.rdu w) s = .next (relativeOutcome s p w 16 unsignedResult) :=
  relativeRead_eq_relativeOutcome (by decide) (fun _ hw64 _ hv => toUnsigned_ofNat hw64 hv) hp

theorem exec_rdsi {s : State} {p : Nat} (hp : s.bitpos[s.port]? = some p) (w : Nat) :
    exec (.rdsi w) s = .next (relativeOutcome s p w 32 (signedResult w)) :=
  relativeRead_eq_relativeOutcome (by decide) (fun hw hw64 _ hv => toSigned_ofNat hw hw64 hv) hp

theorem exec_rdsl {s : State} {p : Nat} (hp : s.bitpos[s.port]? = some p) (w : Nat) :
    exec (.rdsl w) s = .next (relativeOutcome s p w 64 (signedResult w)) :=
  relativeRead_eq_relativeOutcome le_rfl (fun hw hw64 _ hv => toSigned_ofNat hw hw64 hv) hp

theorem exec_rdul {s : State} {p : Nat} (hp : s.bitpos[s.port]? = some p) (w : Nat) :
    exec (.rdul w) s = .next (relativeOutcome s p w 64 unsignedResult) :=
  relativeRead_eq_relativeOutcome le_rfl (fun _ hw64 _ hv => toUnsigned_ofNat hw64 hv) hp

/-- `RESULT` of `RDU` fits 16 bits, whatever the outcome (41_relative_reads R101). -/
theorem exec_rdu_result_le {s t : State} {w : Nat} {r : Response} (h : exec (.rdu w) s = .next t)
    (hr : t.output = some (.response r)) : r.result.toNat ≤ 65535 := by
  obtain ⟨p, hp, -⟩ := onPort_next h
  obtain rfl : relativeOutcome s p w 16 unsignedResult = t := Host.Outcome.next.inj ((exec_rdu hp w).symm.trans h)
  rcases relativeOutcome_response hr with ⟨hzero, -⟩ | ⟨-, hw, hresult⟩
  · simp [hzero]
  · have hfield : fieldValue s.seq p w < 2 ^ 16 :=
      (fieldValue_lt s.seq p w).trans_le (Nat.pow_le_pow_right (by decide) hw)
    rw [hresult, unsignedResult, toNat_ofNat_of_lt_two_pow (by decide) hfield]
    exact Nat.le_of_lt_succ hfield

/-- Settles O20. -/
theorem rduReadsAnUnsignedField : Obligations.RduReadsAnUnsignedField :=
  ⟨fun w hw => decodeOfEncodeIsTheCommand (.rdu w) (decide_eq_true hw), fun _ w _ hp => exec_rdu hp w,
    fun _ _ _ _ h hr => exec_rdu_result_le h hr⟩

/-- `RDBIT` is `RDU 1`: the width check passes in both, and `ToBool` is `ToUnsigned` at width 1 (41_relative_reads
R102). -/
theorem exec_rdbit_eq_exec_rdu (s : State) : exec .rdbit s = exec (.rdu 1) s :=
  relativeRead_congr rfl (fun _ => rfl) s

theorem fieldValue_one (q : Sequence) (p : Nat) : fieldValue q p 1 = (q.streamBit p).toNat := by
  simp [fieldValue_succ]

theorem unsignedResult_toNat (b : Bool) : unsignedResult b.toNat = boolResult b := by
  cases b <;> rfl

/-- A field of one bit lies in one byte, and none is read when that byte is past the end. -/
theorem relativeOutcome_one (s : State) (p : Nat) :
    relativeOutcome s p 1 16 unsignedResult =
      if 8 * s.seq.len < p + 1 then s.answers 0b10#2 0#64 []
      else (s.advanced (p + 1)).answers 0b00#2 (boolResult (s.seq.streamBit p)) [p / 8] := by
  have hend (hout : 8 * s.seq.len < p + 1) : bytesToEnd s.seq p = [] := by
    rw [bytesToEnd, show s.seq.len - p / 8 = 0 by omega, List.range'_zero]
  have hbyte : bytesOfField p 1 = [p / 8] := by
    rw [bytesOfField, Nat.add_sub_cancel, Nat.add_sub_cancel_left, List.range'_one]
  rw [relativeOutcome, if_neg (by decide), if_neg (by decide), hbyte, fieldValue_one, unsignedResult_toNat]
  split
  · rename_i hout
    rw [hend hout]
  · rfl

/-- Settles O21. -/
theorem rdbitReadsOneBit : Obligations.RdbitReadsOneBit := by
  refine ⟨by decide, fun w hw hw128 => decode_cmdOf_of_fixedOp (op := 2) (by decide) hw hw128, fun s p hp => ?_,
    exec_rdbit_eq_exec_rdu⟩
  rw [exec_rdbit_eq_exec_rdu, exec_rdu hp, relativeOutcome_one]

/-- Settles O22: `RESULT` is `ToSigned` of the field, with the bounds of `SignExt`. -/
theorem rdsiReadsASignedField : Obligations.RdsiReadsASignedField := by
  refine ⟨fun w hw => decodeOfEncodeIsTheCommand (.rdsi w) (decide_eq_true hw), fun s w p hp => exec_rdsi hp w, ?_⟩
  intro s t w r hw h hr hok
  obtain ⟨p, hp, -⟩ := onPort_next h
  obtain rfl : relativeOutcome s p w 32 (signedResult w) = t := Host.Outcome.next.inj ((exec_rdsi hp w).symm.trans h)
  obtain ⟨-, hzero⟩ | ⟨-, hw32, hresult⟩ := relativeOutcome_response hr
  · exact absurd (hzero hok) (by omega)
  · have hw64 : w ≤ 64 := hw32.trans (by decide)
    have hfield := fieldValue_lt s.seq p w
    have hraw := (toNat_ofNat_of_lt_two_pow hw64 hfield).trans_lt hfield
    obtain ⟨hlo, hhi⟩ := signExt_bounds hw hraw
    rw [hresult, ← toSigned_ofNat hw hw64 hfield, toSigned_low_toInt hw hw32 hraw, toSigned_toInt hw hw64 hraw]
    exact ⟨hlo, Int.le_sub_one_of_lt hhi, rfl⟩

/-- Settles O23. -/
theorem rdslReadsASignedLongField : Obligations.RdslReadsASignedLongField :=
  ⟨fun w hw => decodeOfEncodeIsTheCommand (.rdsl w) (decide_eq_true hw), fun _ w _ hp => exec_rdsl hp w,
    fun _ hv => signedResult_sixtyFour hv,
    fun s _ hw => relativeRead_eq_of_le (hw.trans (by decide)) hw toSigned s⟩

/-- The stream bit at the start of a field is its top bit (00_scope R12, 40_datapath R83). -/
theorem fieldValue_lt_of_not_streamBit {q : Sequence} {p w : Nat} (hw : 1 ≤ w) (h : q.streamBit p = false) :
    fieldValue q p w < 2 ^ (w - 1) := by
  have hsplit := fieldValue_add q p 1 (w - 1)
  rw [Nat.add_sub_cancel' hw, fieldValue_one, h, Bool.toNat_false, Nat.zero_mul, Nat.zero_add] at hsplit
  exact hsplit.trans_lt (fieldValue_lt q (p + 1) (w - 1))

/-- Settles O24: with the top bit 0 the two conversions agree, and at 64 bits both give the raw pattern. -/
theorem rdulReadsAnUnsignedLongField : Obligations.RdulReadsAnUnsignedLongField := by
  refine ⟨fun w hw => decodeOfEncodeIsTheCommand (.rdul w) (decide_eq_true hw), fun s w p hp => exec_rdul hp w,
    fun s w hw => relativeRead_eq_of_le (hw.trans (by decide)) hw toUnsigned s, fun s w p hp hsame => ?_⟩
  rw [exec_rdul hp, exec_rdsl hp]
  refine congrArg _ (relativeOutcome_congr fun hw => ?_)
  obtain htop | rfl := hsame
  · exact (signedResult_of_lt (fieldValue_lt_of_not_streamBit hw htop)).symm
  · exact (signedResult_sixtyFour (fieldValue_lt s.seq p 64)).symm

/-! ## Consecutive reads -/

/-- A list of commands that all answer `OK` starts with one that does. -/
theorem runOk_cons {i : Instr} {is : List Instr} {s t : State} (h : runOk (i :: is) s = some t) :
    ∃ u port r, exec i s = .next u ∧ u.output = some (.response ⟨port, 0b00#2, r⟩) ∧ runOk is u = some t := by
  unfold runOk at h
  split at h
  · rename_i u hu
    split at h
    · rename_i r hr
      split at h
      · rename_i hok
        exact ⟨u, r.port, r.result, hu, hok ▸ hr, h⟩
      · cases h
    · cases h
    · cases h
  · cases h
  · cases h

theorem exec_port {i : Instr} {s t : State} (h : exec i s = .next t) : t.port = s.port := by
  rw [exec_frame h]

/-- A relative read that answers `OK` leaves the port's cursor behind its field, zero widths included (40_datapath
R88, R90). -/
theorem exec_bitpos_of_ok {i : Instr} {s t : State} {p port : Nat} {r : Word} (hi : relative i = true)
    (hp : s.bitpos[s.port]? = some p) (h : exec i s = .next t)
    (hok : t.output = some (.response ⟨port, 0b00#2, r⟩)) : t.bitpos[s.port]? = some (p + fieldWidth i) := by
  rcases Nat.eq_zero_or_pos (fieldWidth i) with hzero | hpos
  · obtain ⟨-, -, ⟨st, r', rs, rfl⟩ | ⟨-, hpos, -⟩⟩ := exec_next h
    · rw [State.respond_bitpos, hzero, hp, Nat.add_zero]
    · omega
  · obtain ⟨hbitpos, -⟩ := relativeReadsCommitBothCursors i s t p port r hi hpos hp h hok
    rw [hbitpos, List.getElem?_set_self (List.getElem?_eq_some_iff.mp hp).1]

/-- Settles O32, by induction on the list from any state: each read starts where the one before it stopped. -/
theorem consecutiveReadsAddTheirWidths : Obligations.ConsecutiveReadsAddTheirWidths := by
  intro is
  induction is with
  | nil =>
    intro s t p _ hp h
    cases h
    exact hp
  | cons i is ih =>
    intro s t p hrel hp h
    obtain ⟨u, port, r, hu, hok, hrest⟩ := runOk_cons h
    have hstop := exec_bitpos_of_ok (hrel i List.mem_cons_self) hp hu hok
    rw [← exec_port hu] at hstop ⊢
    rw [ih u t _ (fun j hj => hrel j (List.mem_cons_of_mem i hj)) hstop hrest, List.map_cons, List.sum_cons,
      Nat.add_assoc]

end Sys2Proof.Machine

/-! SUPPORT. The absolute reads as whole next states (42_absolute_reads R121 to R124): the closed form of
`AbsoluteRead`, and the relative read it answers as. -/
namespace Sys2Proof.Machine

/-! ## `AbsoluteRead` in closed form -/

/-- On a port that exists, an absolute read of at most 32 bits whose conversion is `result` in closed form goes on to
`absoluteOutcome` at `POS` (40_datapath R86, R89, R92, R95). -/
theorem absoluteRead_eq_absoluteOutcome {w : Nat} {conv : Word → Nat → Word} {result : Nat → Word} {s : State}
    (hconv : 1 ≤ w → w ≤ 64 → ∀ v < 2 ^ w, conv (BitVec.ofNat 64 v) w = result v)
    (hport : s.port < s.bitpos.length) :
    absoluteRead w 1 32 conv s = .next (absoluteOutcome s s.pos.toNat w result) := by
  rw [absoluteRead, onPort_some (List.getElem?_eq_getElem hport), absoluteOutcome]
  by_cases hwidth : 1 ≤ w ∧ w ≤ 32
  · obtain ⟨hpos, hw⟩ := hwidth
    have hw64 : w ≤ 64 := hw.trans (by decide)
    rw [if_neg (Bool.eq_false_iff.mp (widthOutside_eq_false.mpr ⟨hpos, hw⟩)), if_neg (by omega)]
    rcases Nat.lt_or_ge (8 * s.seq.len) (s.pos.toNat + w) with hout | hin
    · rw [extract_outside hpos hw64 hout, if_pos hout]
      rfl
    · rw [extract_inside hpos hw64 hin, if_neg (Nat.not_lt.mpr hin),
        ← hconv hpos hw64 _ (fieldValue_lt s.seq s.pos.toNat w)]
      rfl
  · rw [if_pos (eq_true_of_ne_false (mt widthOutside_eq_false.mp hwidth)), if_pos (by omega)]
    rfl

/-- From one position and for a width both take, an absolute and a relative read answer the same (42_absolute_reads
R124): only the commit of the relative read sets them apart. -/
theorem absoluteOutcome_output_eq {s : State} {p w wmax : Nat} (hw : 1 ≤ w) (hw32 : w ≤ 32) (hmax : w ≤ wmax)
    (result : Nat → Word) :
    (absoluteOutcome s p w result).output = (relativeOutcome s p w wmax result).output := by
  have hzero : w ≠ 0 := Nat.one_le_iff_ne_zero.mp hw
  rw [absoluteOutcome, relativeOutcome, if_neg (not_or.mpr ⟨hzero, Nat.not_lt.mpr hw32⟩),
    if_neg (Nat.not_lt.mpr hmax), if_neg hzero]
  split <;> rfl

/-! ## The commands -/

theorem exec_rduat {s : State} (hport : s.port < s.bitpos.length) (w : Nat) :
    exec (.rduat w) s = .next (absoluteOutcome s s.pos.toNat w unsignedResult) :=
  absoluteRead_eq_absoluteOutcome (fun _ hw64 _ hv => toUnsigned_ofNat hw64 hv) hport

theorem exec_rdsat {s : State} (hport : s.port < s.bitpos.length) (w : Nat) :
    exec (.rdsat w) s = .next (absoluteOutcome s s.pos.toNat w (signedResult w)) :=
  absoluteRead_eq_absoluteOutcome (fun hw hw64 _ hv => toSigned_ofNat hw hw64 hv) hport

/-- Settles O25. -/
theorem rduatReadsAnUnsignedFieldAtPos : Obligations.RduatReadsAnUnsignedFieldAtPos :=
  ⟨fun w hw => decodeOfEncodeIsTheCommand (.rduat w) (decide_eq_true hw), fun _ w hport => exec_rduat hport w⟩

/-- Settles O26: `RDSI` from `BITPOS = POS` has the same field, converted the same way. -/
theorem rdsatReadsASignedFieldAtPos : Obligations.RdsatReadsASignedFieldAtPos := by
  refine ⟨fun w hw => decodeOfEncodeIsTheCommand (.rdsat w) (decide_eq_true hw),
    fun s w hport => exec_rdsat hport w, ?_⟩
  intro s t u w hw hw32 hp ht hu
  have hport := (List.getElem?_eq_some_iff.mp hp).1
  obtain rfl := Host.Outcome.next.inj ((exec_rdsat hport w).symm.trans ht)
  obtain rfl := Host.Outcome.next.inj ((exec_rdsi hp w).symm.trans hu)
  exact absoluteOutcome_output_eq hw hw32 hw32 _

/-- `RDBITAT` is `RDUAT` of one bit: the width check passes in both, and `ToBool` is `ToUnsigned` at width 1
(42_absolute_reads R123). -/
theorem exec_rdbitat_eq_exec_rduat (s : State) : exec .rdbitat s = exec (.rduat 1) s := rfl

/-- A field of one bit lies in one byte. -/
theorem bytesOfField_one (p : Nat) : bytesOfField p 1 = [p / 8] := by
  rw [bytesOfField, Nat.add_sub_cancel, Nat.add_sub_cancel_left, List.range'_one]

/-- From the end on there is no byte left to read. -/
theorem bytesToEnd_of_le {q : Sequence} {p : Nat} (h : 8 * q.len ≤ p) : bytesToEnd q p = [] := by
  rw [bytesToEnd, show q.len - p / 8 = 0 by omega, List.range'_zero]

/-- An absolute read of one bit answers the stream bit, and reads no byte at or past the end. -/
theorem absoluteOutcome_one (s : State) (p : Nat) :
    absoluteOutcome s p 1 unsignedResult =
      if 8 * s.seq.len ≤ p then s.answers 0b10#2 0#64 []
      else s.answers 0b00#2 (boolResult (s.seq.streamBit p)) [p / 8] := by
  rw [absoluteOutcome, if_neg (by decide), bytesOfField_one, fieldValue_one, unsignedResult_toNat]
  simp only [Nat.lt_add_one_iff]
  split
  · rename_i hout
    rw [bytesToEnd_of_le hout]
  · rfl

/-- Settles O27. -/
theorem rdbitatReadsOneBitAtPos : Obligations.RdbitatReadsOneBitAtPos := by
  refine ⟨by decide, fun w hw hw128 => decode_cmdOf_of_fixedOp (op := 8) (by decide) hw hw128, fun s hport => ?_,
    exec_rdbitat_eq_exec_rduat⟩
  rw [exec_rdbitat_eq_exec_rduat, exec_rduat hport, absoluteOutcome_one]

/-! ## Absolute and relative reads -/

/-- `RDUL` answers the raw value of the extraction at the cursor (41_relative_reads R105, 42_absolute_reads R124). -/
theorem exec_rdul_of_extract {s : State} {p w stop : Nat} {raw : Word} (hp : s.bitpos[s.port]? = some p)
    (hw : 1 ≤ w) (hw64 : w ≤ 64) (hf : (extract s.seq p w).field = some (stop, raw)) :
    ∃ u, exec (.rdul w) s = .next u ∧ u.output = some (.response ⟨s.port, 0b00#2, raw⟩) := by
  have hend := extract_field_le_end hw hw64 (Option.ne_none_iff_exists'.mpr ⟨_, hf⟩)
  rw [extract_inside hw hw64 hend] at hf
  obtain ⟨-, rfl⟩ := Prod.mk.inj (Option.some.inj hf)
  refine ⟨_, exec_rdul hp w, ?_⟩
  rw [relativeOutcome, if_neg (Nat.not_lt.mpr hw64), if_neg (by omega), if_neg (Nat.not_lt.mpr hend)]
  rfl

/-- Settles O31: the output is that of the relative read, and no absolute read writes a cursor. -/
theorem absoluteAndRelativeReadsAgree : Obligations.AbsoluteAndRelativeReadsAgree := by
  intro s w hp
  have hport := (List.getElem?_eq_some_iff.mp hp).1
  have hrduat := exec_rduat hport w
  have hrdsat := exec_rdsat hport w
  refine ⟨fun hw hw32 => ⟨?_, ?_⟩, fun hw hw64 stop raw hf => exec_rdul_of_extract hp (by omega) hw64 hf⟩
  · exact ⟨_, _, hrduat, exec_rdul hp w, absoluteOutcome_output_eq hw hw32 (hw32.trans (by decide)) _,
      absoluteReadsLeaveTheCursors (.rduat w) s _ rfl hrduat⟩
  · exact ⟨_, _, hrdsat, exec_rdsi hp w, absoluteOutcome_output_eq hw hw32 hw32 _,
      absoluteReadsLeaveTheCursors (.rdsat w) s _ rfl hrdsat⟩

end Sys2Proof.Machine

/-! SUPPORT. The cursor query as a whole next state (43_cursor_query R140). -/
namespace Sys2Proof.Machine

theorem exec_getpos {s : State} {p : Nat} (hp : s.bitpos[s.port]? = some p) :
    exec .getpos s = .next (s.answers 0b00#2 (BitVec.ofNat 64 p) []) :=
  onPort_some hp _

/-- Under the invariant every bit cursor fits `RESULT` (10_state R21, 00_scope R9). -/
theorem State.bitpos_lt_of_inv {s : State} (hinv : s.Inv) {k p : Nat} (hp : s.bitpos[k]? = some p) : p < 2 ^ 64 := by
  obtain ⟨-, -, -, hbitpos, hfits, -⟩ := hinv
  exact (hbitpos p (List.mem_of_getElem? hp)).trans_lt hfits

/-- Settles O19: a cursor inside the sequence loses nothing in 64 bits. -/
theorem getposAnswersTheCursor : Obligations.GetposAnswersTheCursor := by
  refine ⟨by decide, fun w hw hw128 => decode_cmdOf_of_fixedOp (op := 0) (by decide) hw hw128, fun s p hp => ?_⟩
  exact ⟨exec_getpos hp, fun hinv => toNat_ofNat_of_lt_two_pow le_rfl (State.bitpos_lt_of_inv hinv hp)⟩

end Sys2Proof.Machine

/-! SUPPORT. The byte store's own operations as whole next states (44_bytestore_interface R160 to R170): the value of
bytes in either order, each operation in closed form, and the ways one can end. -/
namespace Sys2Proof.Machine

/-! ## The value of bytes -/

/-- One round of `Assemble` appends a digit to base 256 (44_bytestore_interface R167). -/
theorem shiftLeft_eight_or_toNat (v : Nat) (b : Byte) : v <<< 8 ||| b.toNat = v * 256 + b.toNat := by
  rw [Nat.shiftLeft_eq, mul_comm, ← Nat.two_pow_add_eq_or_of_lt b.isLt, mul_comm]

@[simp] theorem bytesValue_zero (o : ByteOrder) (q : Sequence) (a : Nat) : bytesValue o q a 0 = 0 := by
  cases o <;> rfl

/-- Most significant byte first, the last byte is the lowest digit. -/
theorem bytesValue_msbFirst_succ (q : Sequence) (a n : Nat) :
    bytesValue .msbFirst q a (n + 1) = bytesValue .msbFirst q a n * 256 + (q.bytes.read (a + n)).toNat := by
  have hshift : ∀ k ∈ Finset.range n, (q.bytes.read (a + k)).toNat * 256 ^ (n + 1 - 1 - k) =
      (q.bytes.read (a + k)).toNat * 256 ^ (n - 1 - k) * 256 := by
    intro k hk
    have hk : k < n := Finset.mem_range.mp hk
    rw [show n + 1 - 1 - k = n - 1 - k + 1 by omega, pow_succ, mul_assoc]
  simp only [bytesValue]
  rw [Finset.sum_range_succ, Finset.sum_congr rfl hshift, ← Finset.sum_mul]
  simp

/-- Least significant byte first, the first byte is the lowest digit. -/
theorem bytesValue_lsbFirst_succ (q : Sequence) (a n : Nat) :
    bytesValue .lsbFirst q a (n + 1) = bytesValue .lsbFirst q (a + 1) n * 256 + (q.bytes.read a).toNat := by
  have hshift : ∀ k ∈ Finset.range n, (q.bytes.read (a + (k + 1))).toNat * 256 ^ (k + 1) =
      (q.bytes.read (a + 1 + k)).toNat * 256 ^ k * 256 := by
    intro k _
    rw [show a + (k + 1) = a + 1 + k by omega, pow_succ, mul_assoc]
  simp only [bytesValue]
  rw [Finset.sum_range_succ', Finset.sum_congr rfl hshift, ← Finset.sum_mul]
  simp

theorem bytesValue_lt (o : ByteOrder) (q : Sequence) (a n : Nat) : bytesValue o q a n < 2 ^ (8 * n) := by
  induction n generalizing a with
  | zero => simp
  | succ n ih =>
    rw [Nat.mul_succ, pow_add]
    cases o with
    | msbFirst =>
      have := ih a
      have := (q.bytes.read (a + n)).isLt
      rw [bytesValue_msbFirst_succ]
      omega
    | lsbFirst =>
      have := ih (a + 1)
      have := (q.bytes.read a).isLt
      rw [bytesValue_lsbFirst_succ]
      omega

/-- `SEQ[a .. a+n-1]`, whether or not it lies inside the sequence. -/
abbrev Sequence.span (q : Sequence) (a n : Nat) : List Byte := (List.range n).map fun k => q.bytes.read (a + k)

theorem Sequence.span_succ (q : Sequence) (a n : Nat) : q.span a (n + 1) = q.span a n ++ [q.bytes.read (a + n)] := by
  simp [Sequence.span, List.range_succ]

theorem Sequence.span_succ' (q : Sequence) (a n : Nat) : q.span a (n + 1) = q.bytes.read a :: q.span (a + 1) n := by
  simp [Sequence.span, List.range_succ_eq_map, Nat.add_comm, Nat.add_left_comm]

/-- `Assemble` over a span gives the value of its bytes in either order (44_bytestore_interface R167): the byte it takes
last is the last of the span when MSB_FIRST and the first when LSB_FIRST. -/
theorem assembleBytes_span (o : ByteOrder) (q : Sequence) (a n : Nat) :
    assembleBytes o (q.span a n) = bytesValue o q a n := by
  induction n generalizing a with
  | zero => cases o <;> rfl
  | succ n ih =>
    cases o with
    | msbFirst =>
      rw [bytesValue_msbFirst_succ, ← ih, ← shiftLeft_eight_or_toNat, q.span_succ]
      simp [assembleBytes, ordered]
    | lsbFirst =>
      rw [bytesValue_lsbFirst_succ, ← ih, ← shiftLeft_eight_or_toNat, q.span_succ']
      simp [assembleBytes, ordered]

theorem testBit_top_iff {w v : Nat} (hw : 1 ≤ w) (hv : v < 2 ^ w) : v.testBit (w - 1) = true ↔ 2 ^ (w - 1) ≤ v :=
  ⟨Nat.ge_two_pow_of_testBit, fun hle =>
    Nat.testBit_of_two_pow_le_and_two_pow_add_one_gt hle (by rwa [Nat.sub_add_cancel hw])⟩

/-- The signed number of `n` bytes is the signed value of their `8n`-bit pattern (44_bytestore_interface R165). -/
theorem signedNumber_eq_signedValue {n v : Nat} (hn : 1 ≤ n) (hv : v < 2 ^ (8 * n)) :
    signedNumber n v = signedValue (8 * n) v := by
  simp only [signedNumber, signedValue, testBit_top_iff (show 1 ≤ 8 * n by omega) hv]

/-- A byte is the field of its eight bits. -/
theorem fieldValue_byte (q : Sequence) (i : Nat) : fieldValue q (8 * i) 8 = (q.bytes.read i).toNat := by
  have h := fieldValue_in_byte q i 0 8 le_rfl
  rwa [Nat.add_zero, Nat.sub_self, pow_zero, Nat.div_one, Nat.mod_eq_of_lt (q.bytes.read i).isLt] at h

/-- Most significant byte first, whole bytes are the field of their bits, byte by byte (40_datapath R83). -/
theorem fieldValue_bytes (q : Sequence) (a n : Nat) : fieldValue q (8 * a) (8 * n) = bytesValue .msbFirst q a n := by
  induction n with
  | zero => simp
  | succ n ih =>
    rw [bytesValue_msbFirst_succ, Nat.mul_succ, fieldValue_add, ih, ← Nat.mul_add, fieldValue_byte]
    rfl

/-- Settles O52: the extraction in closed form, whose value fits the accumulator. -/
theorem bigEndianNumberIsTheBitField : Obligations.BigEndianNumberIsTheBitField := by
  intro q a n hn hn8 hend
  refine ⟨BitVec.ofNat 64 (fieldValue q (8 * a) (8 * n)), ?_, ?_⟩
  · rw [extract_inside (by omega) (by omega) (by omega), ← Nat.mul_add]
  · rw [toNat_ofNat_fieldValue q (8 * a) (by omega), fieldValue_bytes]

/-! ## The operations in closed form -/

theorem Sequence.bytesAt_inside {q : Sequence} {a n : Nat} (h : a + n ≤ q.len) : q.bytesAt a n = some (q.span a n) :=
  if_pos h

theorem Sequence.bytesAt_outside {q : Sequence} {a n : Nat} (h : q.len < a + n) : q.bytesAt a n = none :=
  if_neg (Nat.not_le.mpr h)

theorem readByte_eq (s : State) :
    readByte s = if s.seq.len ≤ s.bc then s.yield .outOfRangeError
      else (s.setBc (s.bc + 1)).yield (.byte (s.seq.bytes.read s.bc)) := by
  rcases Nat.lt_or_ge s.bc s.seq.len with hin | hout
  · rw [readByte, Sequence.memRead_of_lt hin, if_neg (Nat.not_le.mpr hin)]
  · rw [readByte, Sequence.memRead_of_le hout, if_pos hout]

/-- The open parameter decides the result only. -/
theorem zeroLength_eq_yield (r : ByteStoreResult) (s : State) :
    zeroLength r s = s.yield (if Config.bvZeroWidth = .empty then r else .widthError) := by
  unfold zeroLength
  cases Config.bvZeroWidth <;> rfl

section
variable {n : Nat} (hn : 1 ≤ n)
include hn

theorem readSlice_of_pos (s : State) :
    readSlice n s = if s.seq.len < s.bc + n then s.yield .outOfRangeError
      else (s.setBc (s.bc + n)).yield (.slice (s.seq.span s.bc n)) := by
  rw [readSlice, if_neg (Nat.one_le_iff_ne_zero.mp hn)]
  rcases Nat.lt_or_ge s.seq.len (s.bc + n) with hout | hin
  · rw [Sequence.bytesAt_outside hout, if_pos hout]
  · rw [Sequence.bytesAt_inside hin, if_neg (Nat.not_lt.mpr hin)]

theorem readSliceAt_of_pos (position : Nat) (s : State) :
    readSliceAt position n s = if s.seq.len < position + n then s.yield .outOfRangeError
      else s.yield (.slice (s.seq.span position n)) := by
  rw [readSliceAt, if_neg (Nat.one_le_iff_ne_zero.mp hn)]
  rcases Nat.lt_or_ge s.seq.len (position + n) with hout | hin
  · rw [Sequence.bytesAt_outside hout, if_pos hout]
  · rw [Sequence.bytesAt_inside hin, if_neg (Nat.not_lt.mpr hin)]

theorem multiByteRead_of_pos (nmax : Nat) (number : Nat → Nat → Int) (s : State) :
    multiByteRead n nmax number s = if nmax < n then s.yield .widthError
      else if s.seq.len < s.bc + n then s.yield .outOfRangeError
      else (s.setBc (s.bc + n)).yield (.number (number n (bytesValue s.byteOrder s.seq s.bc n))) := by
  rw [multiByteRead, if_neg (Nat.one_le_iff_ne_zero.mp hn)]
  rcases Nat.lt_or_ge s.seq.len (s.bc + n) with hout | hin
  · rw [Sequence.bytesAt_outside hout, if_pos hout]
  · rw [Sequence.bytesAt_inside hin, if_neg (Nat.not_lt.mpr hin), ← assembleBytes_span]

end

/-! ## Host steps -/

theorem step_of_byteStore {s : State} {op : ByteStoreOp} {rest : List HostStep}
    (hs : s.script = .byteStore op :: rest) :
    step s = .next (byteStore op { s with script := rest }) :=
  step_of_script_cons hs

/-- Settles O46. -/
theorem hostMoveSetsTheByteCursor : Obligations.HostMoveSetsTheByteCursor := by
  intro s v rest hs hv
  rw [step_of_script_cons hs]
  exact if_pos hv

/-- Settles O49. -/
theorem readByteReturnsTheNextByte : Obligations.ReadByteReturnsTheNextByte := by
  intro s rest hs
  rw [step_of_byteStore hs]
  exact congrArg _ (readByte_eq _)

/-- Settles O50. -/
theorem slicesCopyTheirSpan : Obligations.SlicesCopyTheirSpan := by
  intro s rest a n hn
  refine ⟨fun hs => ?_, fun hs => ?_⟩ <;> rw [step_of_byteStore hs]
  · exact congrArg _ (readSlice_of_pos hn _)
  · exact congrArg _ (readSliceAt_of_pos hn a _)

/-- A step of an operation that is a multi-byte read of at least one byte. -/
theorem step_of_multiByteRead {s : State} {op : ByteStoreOp} {rest : List HostStep} {n nmax : Nat}
    {number : Nat → Nat → Int} (hs : s.script = .byteStore op :: rest) (hn : 1 ≤ n)
    (hop : ∀ t, byteStore op t = multiByteRead n nmax number t) :
    step s = .next (
      if nmax < n then s.stored rest s.bc .widthError
      else if s.seq.len < s.bc + n then s.stored rest s.bc .outOfRangeError
      else s.stored rest (s.bc + n) (.number (number n (bytesValue s.byteOrder s.seq s.bc n)))) := by
  rw [step_of_byteStore hs, hop]
  exact congrArg _ (multiByteRead_of_pos hn nmax number _)

/-- Settles O51: the four operations are one procedure, and the signed number is the signed value of the bits. -/
theorem numbersAssembleInByteOrder : Obligations.NumbersAssembleInByteOrder := by
  intro s rest op n nmax signed hs hn hop
  have hsigned := signedNumber_eq_signedValue hn (bytesValue_lt s.byteOrder s.seq s.bc n)
  simp only [List.mem_cons, List.not_mem_nil, or_false, Prod.mk.injEq] at hop
  obtain ⟨rfl, rfl, rfl⟩ | ⟨rfl, rfl, rfl⟩ | ⟨rfl, rfl, rfl⟩ | ⟨rfl, rfl, rfl⟩ := hop
  · exact step_of_multiByteRead hs hn fun _ => rfl
  · rw [step_of_multiByteRead hs hn fun _ => rfl, hsigned]
    rfl
  · rw [step_of_multiByteRead hs hn fun _ => rfl, hsigned]
    rfl
  · exact step_of_multiByteRead hs hn fun _ => rfl

/-- Settles O54: each of the six operations settles a zero length before the span. -/
theorem zeroLengthRequestIsTheOpenParameter : Obligations.ZeroLengthRequestIsTheOpenParameter := by
  intro s rest op r a hs hop
  have hzero : ∀ t, byteStore op t = zeroLength r t := by
    simp only [List.mem_cons, List.not_mem_nil, or_false, Prod.mk.injEq] at hop
    obtain ⟨rfl, rfl⟩ | ⟨rfl, rfl⟩ | ⟨rfl, rfl⟩ | ⟨rfl, rfl⟩ | ⟨rfl, rfl⟩ | ⟨rfl, rfl⟩ := hop <;>
      exact fun _ => rfl
  rw [step_of_byteStore hs, hzero, zeroLength_eq_yield]
  rfl

/-- Settles O55. -/
theorem accessorsChangeNothing : Obligations.AccessorsChangeNothing := by
  intro s rest op v hs hop
  simp only [List.mem_cons, List.not_mem_nil, or_false, Prod.mk.injEq] at hop
  obtain ⟨rfl, rfl⟩ | ⟨rfl, rfl⟩ | ⟨rfl, rfl⟩ := hop <;> exact step_of_byteStore hs

/-! ## How an operation ends -/

/-- The ways an operation from `s` can end (44_bytestore_interface R160). -/
inductive ByteStoreEnd (s t : State) : Prop where
  /-- It puts `r` out, an error or not, and leaves `BC`. -/
  | kept (r : ByteStoreResult) (h : t = s.yield r)
  /-- It succeeds with `r` and moves `BC`. -/
  | moved (v : Nat) (r : ByteStoreResult) (hrange : r ≠ .outOfRangeError) (hwidth : r ≠ .widthError)
      (h : t = (s.setBc v).yield r)

/-- A zero-length request keeps `BC` in both of its outcomes (44_bytestore_interface R168). -/
theorem zeroLength_end (r : ByteStoreResult) (s : State) : ByteStoreEnd s (zeroLength r s) := by
  rw [zeroLength_eq_yield]
  exact .kept _ rfl

theorem readByte_end (s : State) : ByteStoreEnd s (readByte s) := by
  rw [readByte_eq]
  split
  · exact .kept _ rfl
  · exact .moved _ _ (by simp) (by simp) rfl

theorem readSlice_end (n : Nat) (s : State) : ByteStoreEnd s (readSlice n s) := by
  rcases Nat.eq_zero_or_pos n with rfl | hn
  · exact zeroLength_end _ s
  · rw [readSlice_of_pos hn]
    split
    · exact .kept _ rfl
    · exact .moved _ _ (by simp) (by simp) rfl

theorem readSliceAt_end (position n : Nat) (s : State) : ByteStoreEnd s (readSliceAt position n s) := by
  rcases Nat.eq_zero_or_pos n with rfl | hn
  · exact zeroLength_end _ s
  · rw [readSliceAt_of_pos hn]
    split <;> exact .kept _ rfl

theorem multiByteRead_end (n nmax : Nat) (number : Nat → Nat → Int) (s : State) :
    ByteStoreEnd s (multiByteRead n nmax number s) := by
  rcases Nat.eq_zero_or_pos n with rfl | hn
  · exact zeroLength_end _ s
  · rw [multiByteRead_of_pos hn]
    split
    · exact .kept _ rfl
    · split
      · exact .kept _ rfl
      · exact .moved _ _ (by simp) (by simp) rfl

theorem byteStore_end (op : ByteStoreOp) (s : State) : ByteStoreEnd s (byteStore op s) := by
  cases op with
  | readByte => exact readByte_end s
  | readSlice n => exact readSlice_end n s
  | readSliceAt position n => exact readSliceAt_end position n s
  | readUnsigned n | readSignedInt n | readSignedLong n | readUnsignedWide n => exact multiByteRead_end n _ _ s
  | position | remaining | length => exact .kept _ rfl

/-- Settles O53: of the two ways to end, only a success moves `BC`. -/
theorem byteStoreFrame : Obligations.ByteStoreFrame := by
  intro s op rest hs
  rw [step_of_byteStore hs]
  cases byteStore_end op { s with script := rest } with
  | kept r h => exact ⟨s.bc, r, congrArg _ h, fun _ => rfl⟩
  | moved v r hrange hwidth h => exact ⟨v, r, congrArg _ h, fun hr => (hr.elim hrange hwidth).elim⟩

end Sys2Proof.Machine

/-! SUPPORT. How a command ends (60_exceptions R180 to R185), and which host steps have a step (R190, R195). -/
namespace Sys2Proof.Machine

/-! ## The status of a command -/

/-- The status a command has to answer with once its word has decoded (60_exceptions R181, R182, R185). -/
def commandStatus (i : Instr) (s : State) (bitpos : Nat) : BitVec 2 :=
  if widthWrong i then 0b01#2 else if pastEnd i s bitpos then 0b10#2 else 0b00#2

theorem statusOf_of_ok {c : CmdWord} {i : Instr} (h : decode c = .ok i) (s : State) (p : Nat) :
    statusOf c s p = commandStatus i s p := by
  rw [statusOf, h]
  rfl

theorem statusOf_of_error {c : CmdWord} {e : DecodeError} (h : decode c = .error e) (s : State) (p : Nat) :
    statusOf c s p = 0b11#2 := by
  rw [statusOf, h]

theorem startOf_of_relative {i : Instr} (h : relative i = true) (s : State) (p : Nat) : startOf i s p = p := by
  cases i with
  | rdu w | rdbit | rdsi w | rdsl w | rdul w => rfl
  | getpos | rduat w | rdsat w | rdbitat => cases h

theorem startOf_of_absolute {i : Instr} (h : absolute i = true) (s : State) (p : Nat) :
    startOf i s p = s.pos.toNat :=
  if_pos h

theorem pastEnd_iff {i : Instr} {s : State} {p : Nat} :
    pastEnd i s p = true ↔ 1 ≤ fieldWidth i ∧ 8 * s.seq.len < startOf i s p + fieldWidth i := by
  simp [pastEnd]

/-! ## How a command ends -/

/-- The ways a command from `s` can end in `t`, by the status it answers with (60_exceptions R180, R184). -/
inductive CommandEnd (s : State) : BitVec 2 → State → Prop where
  /-- It completes with `OK`. -/
  | ok {t : State} (r : Word) (houtput : t.output = some (.response ⟨s.port, 0b00#2, r⟩)) : CommandEnd s 0b00#2 t
  /-- It raises `e`: the state is `s` with the error response. -/
  | raised (e : CommandError) (reads : List Nat) :
      CommandEnd s e.status.code (s.answers e.status.code 0#64 reads)

/-- One response on the open port, and 0 in it on an error. -/
theorem CommandEnd.response {s t : State} {st : BitVec 2} (h : CommandEnd s st t) :
    ∃ r, t.output = some (.response ⟨s.port, st, r⟩) ∧ (st ≠ 0b00#2 → r = 0#64) := by
  cases h with
  | ok r houtput => exact ⟨r, houtput, fun hne => absurd rfl hne⟩
  | raised e reads => exact ⟨0#64, rfl, fun _ => rfl⟩

/-- An end whose response is no `OK` is an error, which writes nothing else. -/
theorem CommandEnd.eq_answers_of_error {s t : State} {st st' : BitVec 2} {port : Nat} {r : Word}
    (h : CommandEnd s st t) (hout : t.output = some (.response ⟨port, st', r⟩)) (hne : st' ≠ 0b00#2) :
    t = s.answers st' 0#64 t.reads ∧ r = 0#64 := by
  cases h with
  | ok r' houtput =>
    cases houtput.symm.trans hout
    exact absurd rfl hne
  | raised e reads =>
    cases hout
    exact ⟨rfl, rfl⟩

/-- A relative read that checks its width against `wmax` ends with the status of its command: the width is checked
before the end of the field (60_exceptions R185), and a field of no bits is past no end (40_datapath R90). -/
theorem relativeOutcome_end (i : Instr) {wmax : Nat} (hrel : relative i = true)
    (hwidth : widthWrong i = true ↔ wmax < fieldWidth i) (s : State) (p : Nat) (result : Nat → Word) :
    CommandEnd s (commandStatus i s p) (relativeOutcome s p (fieldWidth i) wmax result) := by
  rw [commandStatus, relativeOutcome]
  simp only [hwidth, pastEnd_iff, startOf_of_relative hrel]
  split
  · exact .raised .widthError []
  rcases Nat.eq_zero_or_pos (fieldWidth i) with hzero | hpos
  · rw [if_neg (by omega), if_pos hzero]
    exact .ok _ rfl
  rw [if_neg hpos.ne']
  rcases Nat.lt_or_ge (8 * s.seq.len) (p + fieldWidth i) with hout | hin
  · rw [if_pos ⟨hpos, hout⟩, if_pos hout]
    exact .raised .outOfRangeError _
  · rw [if_neg (by omega), if_neg (Nat.not_lt.mpr hin)]
    exact .ok _ rfl

/-- An absolute read ends with the status of its command, whatever its port's cursor (60_exceptions R185). -/
theorem absoluteOutcome_end (i : Instr) (habs : absolute i = true)
    (hwidth : widthWrong i = true ↔ fieldWidth i = 0 ∨ 32 < fieldWidth i) (s : State) (p : Nat)
    (result : Nat → Word) :
    CommandEnd s (commandStatus i s p) (absoluteOutcome s s.pos.toNat (fieldWidth i) result) := by
  rw [commandStatus, absoluteOutcome]
  simp only [hwidth, pastEnd_iff, startOf_of_absolute habs]
  split
  · exact .raised .widthError []
  rename_i hw
  rcases Nat.lt_or_ge (8 * s.seq.len) (s.pos.toNat + fieldWidth i) with hout | hin
  · rw [if_pos ⟨by omega, hout⟩, if_pos hout]
    exact .raised .outOfRangeError _
  · rw [if_neg (by omega), if_neg (Nat.not_lt.mpr hin)]
    exact .ok _ rfl

/-- On a port with an instance every command goes on and ends with its status. -/
theorem exec_end {s : State} {p : Nat} (hp : s.bitpos[s.port]? = some p) (i : Instr) :
    ∃ t, exec i s = .next t ∧ CommandEnd s (commandStatus i s p) t := by
  have hport := (List.getElem?_eq_some_iff.mp hp).1
  cases i with
  | getpos => exact ⟨_, exec_getpos hp, .ok _ rfl⟩
  | rdu w => exact ⟨_, exec_rdu hp w, relativeOutcome_end (.rdu w) rfl decide_eq_true_iff s p _⟩
  | rdbit =>
    exact ⟨_, (exec_rdbit_eq_exec_rdu s).trans (exec_rdu hp 1), relativeOutcome_end .rdbit rfl (by decide) s p _⟩
  | rdsi w => exact ⟨_, exec_rdsi hp w, relativeOutcome_end (.rdsi w) rfl decide_eq_true_iff s p _⟩
  | rdsl w => exact ⟨_, exec_rdsl hp w, relativeOutcome_end (.rdsl w) rfl decide_eq_true_iff s p _⟩
  | rdul w => exact ⟨_, exec_rdul hp w, relativeOutcome_end (.rdul w) rfl decide_eq_true_iff s p _⟩
  | rduat w =>
    exact ⟨_, exec_rduat hport w, absoluteOutcome_end (.rduat w) rfl (by simp [widthWrong, fieldWidth]) s p _⟩
  | rdsat w =>
    exact ⟨_, exec_rdsat hport w, absoluteOutcome_end (.rdsat w) rfl (by simp [widthWrong, fieldWidth]) s p _⟩
  | rdbitat =>
    exact ⟨_, (exec_rdbitat_eq_exec_rduat s).trans (exec_rduat hport 1),
      absoluteOutcome_end .rdbitat rfl (by decide) s p _⟩

/-- On a port with an instance every word goes on and ends with its status; one that encodes no command is checked
no further (60_exceptions R183, R185). -/
theorem runWord_end {s : State} {p : Nat} (hp : s.bitpos[s.port]? = some p) (w : CmdWord) :
    ∃ t, runWord w s = .next t ∧ CommandEnd s (statusOf w s p) t := by
  cases hd : decode w with
  | ok i =>
    rw [runWord_of_ok hd, statusOf_of_ok hd]
    exact exec_end hp i
  | error e =>
    rw [runWord_of_error hd, onPort_some hp, statusOf_of_error hd]
    exact ⟨_, rfl, .raised .illegalCommand []⟩

/-- A step that issues a word goes on and ends with the word's status. -/
theorem step_end {s : State} {c : Command} {rest : List HostStep} {p : Nat} (hs : s.script = .command c :: rest)
    (hp : s.bitpos[c.port]? = some p) :
    ∃ t, step s = .next t ∧ CommandEnd (s.issued c rest) (statusOf c.cmd (s.issued c rest) p) t := by
  rw [step_of_command hs]
  exact runWord_end hp c.cmd

/-- Settles O10. -/
theorem everyWordAnswersItsStatus : Obligations.EveryWordAnswersItsStatus := by
  intro s c rest p hs hp
  obtain ⟨t, ht, hend⟩ := step_end hs hp
  obtain ⟨r, hout, hzero⟩ := hend.response
  exact ⟨t, r, ht, hout, hzero⟩

/-! ## Errors do not latch -/

/-- A step that issues a word goes on only on a port that has an instance (30_encoding R60). -/
theorem step_command_port {s t : State} {c : Command} {rest : List HostStep} (hs : s.script = .command c :: rest)
    (h : step s = .next t) : ∃ p, s.bitpos[c.port]? = some p := by
  obtain ⟨run, hrun⟩ := runWord_eq_onPort c.cmd (s.issued c rest)
  rw [step_of_command hs, hrun] at h
  obtain ⟨p, hp, -⟩ := onPort_next h
  exact ⟨p, hp⟩

/-- A command drives its own port and `POS`, and no step reads an output: behind a command that only answered, the
next one runs as if it had not been issued (60_exceptions R184). -/
theorem step_answers_of_command (s : State) (c c' : Command) (rest : List HostStep) (st : BitVec 2) (r : Word)
    (reads : List Nat) :
    step ((s.issued c (.command c' :: rest)).answers st r reads) = step { s with script := .command c' :: rest } :=
  runHostStep_ignores_outputs (.command c') { s with script := rest } (some (.response ⟨c.port, st, r⟩)) reads

/-- Settles O11. -/
theorem errorsChangeNothing : Obligations.ErrorsChangeNothing := by
  intro s t c rest st r hs ht hout hne
  obtain ⟨p, hp⟩ := step_command_port hs ht
  obtain ⟨t', ht', hend⟩ := step_end hs hp
  obtain rfl : t = t' := Host.Outcome.next.inj (ht.symm.trans ht')
  obtain ⟨heq, hzero⟩ := hend.eq_answers_of_error hout hne
  refine ⟨heq, hzero, fun c' rest' hrest => ?_⟩
  subst hrest
  rw [heq]
  exact step_answers_of_command s c c' rest' st 0#64 t.reads

/-! ## Which host steps have a step -/

theorem step_of_admitted {s : State} {h : HostStep} {rest : List HostStep} (hs : s.script = h :: rest)
    (hadm : h.admitted s = true) : ∃ t, step s = .next t := by
  cases h with
  | command c =>
    obtain ⟨t, ht, -⟩ := step_end hs (List.getElem?_eq_getElem (of_decide_eq_true hadm))
    exact ⟨t, ht⟩
  | overlap _ _ => cases hadm
  | byteStore op => exact ⟨_, step_of_byteStore hs⟩
  | moveBc v => exact ⟨_, hostMoveSetsTheByteCursor s v rest hs (of_decide_eq_true hadm)⟩
  | attach port =>
    rw [step_of_script_cons hs]
    exact ⟨_, if_pos (of_decide_eq_true hadm)⟩

theorem step_of_not_admitted {s : State} {h : HostStep} {rest : List HostStep} (hs : s.script = h :: rest)
    (hadm : h.admitted s = false) : ∃ e, step s = .fault e := by
  obtain ⟨-, hcommand, hattach, hmove⟩ := stopsOutsideTheSpecAreNamed
  cases h with
  | command c => exact ⟨_, hcommand s c rest hs (Nat.not_lt.mp (of_decide_eq_false hadm))⟩
  | overlap _ _ => exact ⟨_, step_of_script_cons hs⟩
  | byteStore _ => cases hadm
  | moveBc v => exact ⟨_, hmove s v rest hs (Nat.not_le.mp (of_decide_eq_false hadm))⟩
  | attach port => exact ⟨_, hattach s port rest hs (Nat.not_lt.mp (of_decide_eq_false hadm))⟩

/-- Settles O42: a step goes on with nothing issued or with an admitted host step, and stops with a fault on any
other. -/
theorem stepCompletesExactlyWhenAdmitted : Obligations.StepCompletesExactlyWhenAdmitted := by
  intro s
  cases hs : s.script with
  | nil =>
    rw [step_of_script_nil hs]
    exact ⟨iff_of_true ⟨_, rfl⟩ nofun, nofun⟩
  | cons h rest =>
    cases hadm : h.admitted s with
    | true =>
      obtain ⟨t, ht⟩ := step_of_admitted hs hadm
      rw [ht]
      refine ⟨iff_of_true ⟨t, rfl⟩ fun h' rest' heq => ?_, nofun⟩
      cases heq
      exact hadm
    | false =>
      obtain ⟨e, he⟩ := step_of_not_admitted hs hadm
      rw [he]
      refine ⟨iff_of_false nofun fun hall => ?_, nofun⟩
      exact Bool.false_ne_true (hadm.symm.trans (hall h rest rfl))

/-- Settles O48. -/
theorem nothingIssuedHoldsTheState : Obligations.NothingIssuedHoldsTheState :=
  fun _ hs => step_of_script_nil hs

end Sys2Proof.Machine

/-! SUPPORT. The byte cursor between the bit cursors and the byte store (70_reset_and_hazards R210, R214), and the
overlapping issue (R217). -/
namespace Sys2Proof.Machine

/-- A relative read of at least one bit answers `OK` only for a field inside the sequence: past the end its status is
OutOfRangeError (60_exceptions R182). -/
theorem field_le_end_of_ok {i : Instr} {s t : State} {p port : Nat} {r : Word} (hi : relative i = true)
    (hw : 1 ≤ fieldWidth i) (hp : s.bitpos[s.port]? = some p) (h : exec i s = .next t)
    (hok : t.output = some (.response ⟨port, 0b00#2, r⟩)) : p + fieldWidth i ≤ 8 * s.seq.len := by
  obtain ⟨t', ht', hend⟩ := exec_end hp i
  obtain rfl : t = t' := Host.Outcome.next.inj (h.symm.trans ht')
  obtain ⟨r', hout, -⟩ := hend.response
  obtain ⟨-, hstatus, -⟩ : s.port = port ∧ commandStatus i s p = 0b00#2 ∧ r' = r := by
    simpa using hout.symm.trans hok
  by_contra hlt
  have hpast : pastEnd i s p = true := pastEnd_iff.mpr ⟨hw, by rw [startOf_of_relative hi]; omega⟩
  rw [commandStatus, hpast] at hstatus
  split at hstatus <;> simp at hstatus

/-- Settles O56: the read leaves `BC` at the byte its field ends inside, which lies inside the sequence, and a
`readByte` there returns it. -/
theorem partlyConsumedByteIsReadWhole : Obligations.PartlyConsumedByteIsReadWhole := by
  intro s t c rest i p r hs hd hi hw hp ht hok hpartial
  have hexec : exec i (s.issued c (.byteStore .readByte :: rest)) = .next t :=
    (stepRunsTheIssuedCommand s c _ i hs hd).symm.trans ht
  obtain ⟨-, hbc⟩ := relativeReadsCommitBothCursors i _ t p c.port r hi hw hp hexec hok
  have hend : p + fieldWidth i ≤ 8 * s.seq.len :=
    field_le_end_of_ok (s := s.issued c _) hi hw hp hexec hok
  have hinside : ¬ t.seq.len ≤ t.bc := by
    rw [step_seq ht, hbc]
    omega
  have hscript : t.script = .byteStore .readByte :: rest := by rw [exec_frame hexec]; rfl
  refine ⟨hbc, ?_⟩
  rw [readByteReturnsTheNextByte t rest hscript, if_neg hinside, ← hbc, step_seq ht]

/-- Settles O45. -/
theorem overlappingIssueHasNoStep : Obligations.OverlappingIssueHasNoStep :=
  fun _ _ _ _ hs => step_of_script_cons hs

/-- Settles O47. -/
theorem attachStartsAtTheByteCursor : Obligations.AttachStartsAtTheByteCursor := by
  intro s k rest hs hk
  refine ⟨?_, Nat.mul_le_mul_left 8⟩
  rw [step_of_script_cons hs]
  exact if_pos hk

end Sys2Proof.Machine
